-- ==== Sys2Proof/Word.lean ====
section
/-! DEFINITION. The bit-vector types of the block (00_scope R10): a byte is 8 bits, a word is 32 bits. -/

namespace Sys2Proof

/-- An unsigned 8-bit value (00_scope R10). -/
abbrev Byte := BitVec 8

/-- An unsigned 32-bit value (00_scope R10): a register, a command, a clock value. -/
abbrev Word := BitVec 32

/-- A byte string (00_scope R13). -/
abbrev Text := List Byte

end Sys2Proof
end

