-- ==== Sys2Proof/Config.lean ====
section
/-! DEFINITION. The parameters of the block (00_scope R8), their defaults, and the constants that stand for the OPEN
ones. A state carries its parameters (log 1), so what is proved for every state is proved for every parameter set. -/

namespace Sys2Proof

/-- The implementation parameters of 00_scope R8 ("A model takes each as an argument") and BASE of 20_memory R98; NOW0 is
the argument `now` of `State.initial`. -/
structure Params where
  /-- BUF_CAP: capacity in bytes of each frame buffer. -/
  bufCap : Nat
  /-- MIN_GROUP_LEN: shortest group that is checksum-checked. -/
  minGroupLen : Nat
  /-- CK_MASK. -/
  ckMask : Nat
  /-- CK_OFFSET. -/
  ckOffset : Nat
  /-- SOF, the start-of-frame byte. -/
  sof : Byte
  /-- EOF, the end-of-frame byte. -/
  eof : Byte
  /-- SOG, the start-of-group byte. -/
  sog : Byte
  /-- EOG, the end-of-group byte. -/
  eog : Byte
  /-- SEP, the field separator. -/
  sep : Byte
  /-- CLOCK_BITS: width of the millisecond clock. -/
  clockBits : Nat
  /-- RXQ_DEPTH: depth of the input byte queue. -/
  rxqDepth : Nat
  /-- N_TIMERS: timer slots (log 12). -/
  nTimers : Nat
  /-- V_FLOOR: voltage floor, exclusive. -/
  vFloor : Nat
  /-- V_REL_PCT: voltage relative-change bound in percent, inclusive. -/
  vRelPct : Nat
  /-- P_REL_PCT: apparent-power tolerance in percent, inclusive. -/
  pRelPct : Nat
  /-- PREF_FORBIDDEN: the two forbidden reference-power values (log 19). -/
  prefForbidden : Word × Word
  /-- LIT_PEAK: the tariff-period string that means peak. -/
  litPeak : Text
  /-- LIT_OFFPEAK: the tariff-period string that means off-peak. -/
  litOffpeak : Text
  /-- SEASON_SET: the letters accepted first in a timestamp. -/
  seasonSet : List Byte
  /-- W_ADSC: fixed width of the address identifier. -/
  wAdsc : Nat
  /-- W_PRM: fixed width of the delivery-point identifier. -/
  wPrm : Nat
  /-- TAG_NAMES: the byte strings of the 17 wire tags, in the order of the field ids (30_encoding R136). -/
  tagNames : List Text
  /-- HEALTH_THRESHOLD_MS: frame duration below which a frame is healthy, exclusive. -/
  healthThresholdMs : Nat
  /-- BLINK_SLOW_MS: status-timer period when healthy. -/
  blinkSlowMs : Word
  /-- BLINK_FAST_MS: status-timer period when degraded. -/
  blinkFastMs : Word
  /-- BLINK_ON_MS: on-time of one blink. -/
  blinkOnMs : Word
  /-- WDOG_MS: watchdog period. -/
  wdogMs : Word
  /-- LOG_REJECTS: whether a field validation failure emits a log event. -/
  logRejects : Bool
  /-- BASE: where the register window sits in the host's address space (20_memory R98; log 16). -/
  base : Nat
  deriving DecidableEq, Repr

/-- The default TAG_NAMES, in ASCII (30_encoding R136; log 22). -/
def Config.tagNames : List Text :=
   [[0x41, 0x44, 0x53, 0x43],  -- 0: ADSC
    [0x56, 0x54, 0x49, 0x43],  -- 1: VTIC
    [0x44, 0x41, 0x54, 0x45],  -- 2: DATE
    [0x4E, 0x47, 0x54, 0x46],  -- 3: NGTF
    [0x4C, 0x54, 0x41, 0x52, 0x46],  -- 4: LTARF
    [0x45, 0x41, 0x53, 0x46, 0x30, 0x31],  -- 5: EASF01
    [0x45, 0x41, 0x53, 0x46, 0x30, 0x32],  -- 6: EASF02
    [0x49, 0x52, 0x4D, 0x53, 0x31],  -- 7: IRMS1
    [0x55, 0x52, 0x4D, 0x53, 0x31],  -- 8: URMS1
    [0x50, 0x52, 0x45, 0x46],  -- 9: PREF
    [0x53, 0x49, 0x4E, 0x53, 0x54, 0x53],  -- 10: SINSTS
    [0x53, 0x4D, 0x41, 0x58, 0x53, 0x4E],  -- 11: SMAXSN
    [0x53, 0x4D, 0x41, 0x58, 0x53, 0x4E, 0x2D, 0x31],  -- 12: SMAXSN-1
    [0x43, 0x43, 0x41, 0x53, 0x4E],  -- 13: CCASN
    [0x43, 0x43, 0x41, 0x53, 0x4E, 0x2D, 0x31],  -- 14: CCASN-1
    [0x50, 0x52, 0x4D],  -- 15: PRM
    [0x4E, 0x54, 0x41, 0x52, 0x46]]  -- 16: NTARF

/-- NOW0, OPEN: the clock value when the model starts (00_scope R8, 10_state R32; log 10). -/
opaque Config.now0 : Word

/-- RXQ_DEPTH is OPEN and at least 1 (00_scope R8, R9): this constant plus one (log 2). -/
opaque Config.rxqDepthLessOne : Nat

/-- PREF_FORBIDDEN, OPEN (00_scope R8; log 2, log 19). -/
opaque Config.prefForbidden : Word × Word

/-- LIT_PEAK, OPEN (00_scope R8; log 2). -/
opaque Config.litPeak : Text

/-- The string LIT_OFFPEAK is made from (log 2). -/
opaque Config.litOther : Text

/-- LIT_OFFPEAK, OPEN but different from LIT_PEAK (00_scope R8, R9): every pair of different strings is
`(litPeak, litOffpeak)` for some value of the two constants (log 2). -/
def Config.litOffpeak : Text :=
  if Config.litOther = Config.litPeak then 0x20#8 :: Config.litPeak else Config.litOther

/-- BLINK_SLOW_MS, OPEN (00_scope R8; log 2). -/
opaque Config.blinkSlowMs : Word

/-- BLINK_FAST_MS, OPEN (00_scope R8; log 2). -/
opaque Config.blinkFastMs : Word

/-- BASE, OPEN: the address of the register window (20_memory R98; log 16). -/
opaque Config.base : Nat

/-- The parameter set the model starts with: the defaults of 00_scope R8, and the OPEN parameters as constants without a
value (log 2, log 22). -/
def Config.params : Params where
  bufCap := 64
  minGroupLen := 8
  ckMask := 0x3F
  ckOffset := 0x20
  sof := 0x02#8
  eof := 0x03#8
  sog := 0x0A#8
  eog := 0x0D#8
  sep := 0x09#8
  clockBits := 32
  rxqDepth := Config.rxqDepthLessOne + 1
  nTimers := 5
  vFloor := 150
  vRelPct := 25
  pRelPct := 25
  prefForbidden := Config.prefForbidden
  litPeak := Config.litPeak
  litOffpeak := Config.litOffpeak
  seasonSet := [0x45#8, 0x48#8, 0x65#8, 0x68#8]
  wAdsc := 12
  wPrm := 14
  tagNames := Config.tagNames
  healthThresholdMs := 2000
  blinkSlowMs := Config.blinkSlowMs
  blinkFastMs := Config.blinkFastMs
  blinkOnMs := 150#32
  wdogMs := 10000#32
  logRejects := true
  base := Config.base

end Sys2Proof
end

