-- ==== Sys2Proof/Syntax.lean ====
section
/-! DEFINITION. The commands of the block: one constructor per row of the opcode map (30_encoding R121), with the
operands R122 gives them. -/

namespace Sys2Proof

/-- The timer slots `t` (10_state R45): the five that 10_state R46 names, and the slots 5, 6, ... of a block whose N_TIMERS
is larger than 5 (log 12). -/
inductive TimerId where
  | minp | maxp | stat | blnk | wdog
  /-- Slot `5 + k`. -/
  | other (k : Nat)
  deriving DecidableEq, Repr

/-- The commands (30_encoding R121). An operand is held decoded: a timer slot and not a field of four bits. That a slot is
below N_TIMERS (R124) is `Instr.wellFormed`. -/
inductive Instr where
  /-- OP 0x0 (45_control R322). -/
  | nop
  /-- OP 0x1 (45_control R323). -/
  | poll
  /-- OP 0x2 (41_decoder R222). -/
  | decode
  /-- OP 0x3 (40_receiver R172). -/
  | feed
  /-- OP 0x4 (40_receiver R171): the byte handed to the receiver. -/
  | rxbyte (b : Byte)
  /-- OP 0x5 (42_softtimer R262): the slot, REPEAT and CBEN. -/
  | tcfg (t : TimerId) (rep : Bool) (cben : Bool)
  /-- OP 0x6 (42_softtimer R263). -/
  | tstart (t : TimerId)
  /-- OP 0x7 (42_softtimer R264). -/
  | trestart (t : TimerId)
  /-- OP 0x8 (42_softtimer R265). -/
  | tstop (t : TimerId)
  /-- OP 0x9 (42_softtimer R266). -/
  | tpoll (t : TimerId)
  /-- OP 0xA (42_softtimer R267). -/
  | tpollall
  deriving DecidableEq, Repr

/-- The slot number `t` (10_state R46). -/
def TimerId.index : TimerId → Nat
  | .minp => 0
  | .maxp => 1
  | .stat => 2
  | .blnk => 3
  | .wdog => 4
  | .other k => 5 + k

/-- Slot number `n`. -/
def TimerId.ofIndex : Nat → TimerId
  | 0 => .minp
  | 1 => .maxp
  | 2 => .stat
  | 3 => .blnk
  | 4 => .wdog
  | n + 5 => .other n

/-- The slot polled after `t` in a bank of `n` slots, none after the last (45_control R321). -/
def TimerId.next (n : Nat) (t : TimerId) : Option TimerId :=
  if t.index + 1 < n then some (TimerId.ofIndex (t.index + 1)) else none

/-- A command done in one microstep (30_encoding R121, column multi-microstep). -/
def Instr.isSingleStep : Instr → Bool
  | .nop => true
  | .poll => false
  | .decode => true
  | .feed => false
  | .rxbyte _ => true
  | .tcfg _ _ _ => true
  | .tstart _ => true
  | .trestart _ => true
  | .tstop _ => true
  | .tpoll _ => true
  | .tpollall => false

end Sys2Proof
end

