-- ==== Sys2Proof/Machine/State.lean ====
section
/-! DEFINITION. The state of the block as plain data: every field of 10_state, the output event stream (30_encoding
R140), and the model's own fields (the parameters, whose turn it is, what the host's bus saw last). -/

namespace Sys2Proof.Machine

/-- `S.rx_phase` (10_state R33). -/
inductive RxPhase where
  | idle | receiving
  deriving DecidableEq, Repr

/-- The two frame buffers: A is `k = 0`, B is `k = 1` (10_state R36). -/
inductive BufId where
  | a | b
  deriving DecidableEq, Repr

/-- The control phase (10_state R31): which microstep the block takes next. -/
inductive Phase where
  /-- READY: no command in progress. -/
  | ready
  /-- EXEC(c): a single-step command latched with its operands. -/
  | exec (c : Instr)
  /-- POLL_DEC. -/
  | pollDec
  /-- POLL_FEED. -/
  | pollFeed
  /-- POLL_TMR(t). -/
  | pollTmr (t : TimerId)
  /-- FEED_LOOP. -/
  | feedLoop
  /-- TPA(t). -/
  | tpa (t : TimerId)
  deriving DecidableEq, Repr

/-- One software timer (10_state R45). It is armed when `start` is not 0. -/
structure SoftTimer where
  /-- The configured delay in milliseconds, of clock width. -/
  delay : Word
  /-- The "started at" timestamp, of clock width; 0 means stopped. -/
  start : Word
  /-- `repeat`: true repeats, false is one-shot. -/
  rep : Bool
  /-- Callback enabled. -/
  cben : Bool
  deriving DecidableEq, Repr

/-- The timer bank (10_state R45, R46): one field for each slot that R46 names, and the slots 5 to N_TIMERS - 1 in order
(log 12). -/
structure TimerBank where
  minp : SoftTimer
  maxp : SoftTimer
  stat : SoftTimer
  blnk : SoftTimer
  wdog : SoftTimer
  others : List SoftTimer
  deriving DecidableEq, Repr

/-- The field ids 0..17 (10_state R42); `peak` is the derived slot 17. -/
inductive FieldId where
  | adsc | vtic | date | ngtf | ltarf | easf01 | easf02 | irms1 | urms1 | pref | sinsts
  | smaxsn | smaxsn1 | ccasn | ccasn1 | prm | ntarf | peak
  deriving DecidableEq, Repr

/-- The slot type SAMPLE (10_state R42): a value and its timestamp. -/
structure Sample where
  value : Word
  stamp : Text
  deriving DecidableEq, Repr

/-- A typed value (10_state R42, 30_encoding R138). -/
inductive Value where
  | text (t : Text)
  | u32 (x : Word)
  | sample (x : Sample)
  | bool (b : Bool)
  deriving DecidableEq, Repr

/-- The decoded record `S.rec` (10_state R42): each slot with its own type. -/
structure Record where
  adsc : Text
  vtic : Text
  date : Text
  ngtf : Text
  ltarf : Text
  easf01 : Word
  easf02 : Word
  irms1 : Word
  urms1 : Word
  pref : Word
  sinsts : Word
  smaxsn : Sample
  smaxsn1 : Sample
  ccasn : Sample
  ccasn1 : Sample
  prm : Text
  ntarf : Word
  peak : Bool
  deriving DecidableEq, Repr

/-- The indicator outputs: HEALTH = 0, PEAK = 1, OFFPEAK = 2 (30_encoding R141). -/
inductive Pin where
  | health | peak | offpeak
  deriving DecidableEq, Repr

/-- The reasons of LOG_TIMER_MISUSE: ZERO_DELAY = 0, ALREADY_ARMED = 1 (30_encoding R142). -/
inductive Misuse where
  | zeroDelay | alreadyArmed
  deriving DecidableEq, Repr

/-- The events the block emits (30_encoding R142). -/
inductive Event where
  /-- 0x01 PUBLISH. -/
  | publish (f : FieldId) (v : Value)
  /-- 0x02 GPIO. -/
  | gpio (pin : Pin) (level : Bool)
  /-- 0x10 LOG_SHORT_GROUP. -/
  | logShortGroup (n : Nat)
  /-- 0x11 LOG_CKSUM_FAIL; the expected byte is the exact integer of 40_receiver R167 (log 18). -/
  | logCksumFail (n : Nat) (expected : Nat) (received : Byte)
  /-- 0x12 LOG_OVERFLOW. -/
  | logOverflow
  /-- 0x13 LOG_UNKNOWN_TAG. -/
  | logUnknownTag (tag : Text)
  /-- 0x14 LOG_FIELD_REJECT. -/
  | logFieldReject (f : FieldId)
  /-- 0x15 LOG_PEAK_TRANSITION. -/
  | logPeakTransition (p : Bool)
  /-- 0x16 LOG_TIMER_MISUSE. -/
  | logTimerMisuse (t : TimerId) (reason : Misuse)
  /-- 0x17 LOG_CMD_ILLEGAL. -/
  | logCmdIllegal (w : Word)
  deriving DecidableEq, Repr

/-- One environment step (45_control R330 to R333). A host access has an address in the host's address space,
where the register window sits at BASE (20_memory R98), and a width in bits. -/
inductive EnvAction where
  /-- ARRIVE(b) (45_control R330). -/
  | arrive (b : Byte)
  /-- TICK(d) (45_control R331). -/
  | tick (d : Nat)
  /-- A host read (45_control R332). -/
  | hostRead (addr width : Nat)
  /-- A host write (45_control R332). -/
  | hostWrite (addr width : Nat) (v : Word)
  /-- RESET (45_control R333). -/
  | reset
  deriving DecidableEq, Repr

/-- One turn of a run (45_control R334): a block microstep, or an environment step (log 3). -/
inductive Turn where
  | block
  | env (a : EnvAction)
  deriving DecidableEq, Repr

/-- What the host's latest register access answered. Not part of the block's state (log 6). -/
inductive BusReply where
  /-- No access since the start or the latest RESET. -/
  | idle
  /-- A read and the value it returned. -/
  | value (v : Word)
  /-- A write was taken. -/
  | written
  /-- The access was not an aligned 32-bit access: refused, without a value (20_memory R95). -/
  | refused
  /-- The address lies below BASE: the access is none of the block's (log 16). -/
  | notMine
  deriving DecidableEq, Repr

/-- The frame buffer space as (address, byte) pairs; a cell that is not listed has no value (10_state R36). -/
abbrev Memory := List Host.Cell

/-- The state: the block's `S` (10_state), its output events, and the model's own `cfg`, `turns` and `busReply`. -/
structure State where
  /-- The parameters of 00_scope R8; no step writes them (log 1). -/
  cfg : Params
  /-- `S.phase` (10_state R31). -/
  phase : Phase
  /-- `S.now` (10_state R32). -/
  now : Word
  /-- `S.rx_phase` (10_state R33). -/
  rxPhase : RxPhase
  /-- `S.sof_seen` (10_state R34). -/
  sofSeen : Bool
  /-- `S.cursor` (10_state R35). -/
  cursor : Nat
  /-- `S.buf[0]` and `S.buf[1]` (10_state R36) at the addresses of 20_memory R91. -/
  mem : Memory
  /-- `S.rx_sel` (10_state R37): the receive buffer. -/
  rxSel : BufId
  /-- `S.dec_pending` (10_state R38). -/
  decPending : Bool
  /-- `S.frame_start_ts` (10_state R39). -/
  frameStart : Word
  /-- `S.last_dur` (10_state R40). -/
  lastDur : Word
  /-- `S.overrun` (10_state R41). -/
  overrun : Bool
  /-- `S.rec` (10_state R42). -/
  record : Record
  /-- `S.chg` (10_state R43). -/
  chg : BitVec 18
  /-- `S.unk_cnt` (10_state R44). -/
  unkCnt : Word
  /-- `S.tmr` (10_state R45). -/
  tmr : TimerBank
  /-- `S.healthy` (10_state R47). -/
  healthy : Bool
  /-- `S.led_health` (10_state R48). -/
  ledHealth : Bool
  /-- `S.led_peak` (10_state R48). -/
  ledPeak : Bool
  /-- `S.led_offpeak` (10_state R48). -/
  ledOffpeak : Bool
  /-- `S.data` (10_state R49). -/
  data : Word
  /-- `S.cmd_err` (10_state R49). -/
  cmdErr : Bool
  /-- `S.rxq` (10_state R49), oldest first. -/
  rxq : List Byte
  /-- `S.rxq_lost` (10_state R49). -/
  rxqLost : Bool
  /-- The output event stream, oldest first (30_encoding R140; log 7). -/
  events : List Event
  /-- Whose turn it is, the next one first; with no turn listed the block moves (log 3). -/
  turns : List Turn
  /-- What the host's latest access answered (log 6). -/
  busReply : BusReply
  deriving DecidableEq, Repr

/-- Why a step can stop with a fault. Neither is reachable from a state that meets the invariant `Invariant`. -/
inductive Fault where
  /-- An access to a frame buffer outside cells `0 .. BUF_CAP - 1` (20_memory R91), raised by the buffer accesses of the
  receiver and the decoder. Safe: no rule forms such an access. -/
  | cellOutOfRange (k : BufId) (i : Nat)
  /-- A read of a frame buffer cell nothing has written (20_memory R93), raised by the reads of the receiver and the
  decoder. Safe: no rule reads such a cell. -/
  | cellUnwritten (k : BufId) (i : Nat)
  deriving DecidableEq, Repr

/-- Why a step can be refused. No meaning refuses: the block turns nothing away but a bad host access, after which it
carries on (60_exceptions R351 row 12, log 6). -/
inductive Refusal where
  /-- A command without a meaning, by its mnemonic; raised by `exec` for such an arm alone (there is none). Safe. -/
  | notModelled (mnemonic : String)
  deriving DecidableEq, Repr

/-- A stopped timer with every field zero. -/
def SoftTimer.zero : SoftTimer := { delay := 0, start := 0, rep := false, cben := false }

/-- The timer bank after reset (10_state R46); a slot that R46 does not name is stopped (R57), its other fields zero
(log 12). -/
def TimerBank.atReset (cfg : Params) : TimerBank where
  minp := { delay := 0, start := 0, rep := true, cben := true }
  maxp := { delay := 0, start := 0, rep := true, cben := true }
  stat := { delay := cfg.blinkFastMs, start := 0, rep := true, cben := true }
  blnk := { delay := cfg.blinkOnMs, start := 0, rep := false, cben := true }
  wdog := { delay := cfg.wdogMs, start := 0, rep := true, cben := true }
  others := List.replicate (cfg.nTimers - 5) SoftTimer.zero

/-- The record after reset: empty texts, zeros, false (10_state R42). -/
def Record.atReset : Record where
  adsc := []
  vtic := []
  date := []
  ngtf := []
  ltarf := []
  easf01 := 0
  easf02 := 0
  irms1 := 0
  urms1 := 0
  pref := 0
  sinsts := 0
  smaxsn := { value := 0, stamp := [] }
  smaxsn1 := { value := 0, stamp := [] }
  ccasn := { value := 0, stamp := [] }
  ccasn1 := { value := 0, stamp := [] }
  prm := []
  ntarf := 0
  peak := false

/-- The reset state of 10_state R57 for given parameters and clock value, with no event emitted and no turn listed. -/
def State.initial (cfg : Params) (now : Word) : State where
  cfg := cfg
  phase := .ready
  now := now
  rxPhase := .idle
  sofSeen := false
  cursor := 0
  mem := []
  rxSel := .a
  decPending := false
  frameStart := 0
  lastDur := 0
  overrun := false
  record := Record.atReset
  chg := 0
  unkCnt := 0
  tmr := TimerBank.atReset cfg
  healthy := false
  ledHealth := false
  ledPeak := false
  ledOffpeak := false
  data := 0
  cmdErr := false
  rxq := []
  rxqLost := false
  events := []
  turns := []
  busReply := .idle

/-- The state a run starts in (70_reset R381): the reset state with `S.now = NOW0` and an empty event stream. -/
def State.reset : State := State.initial Config.params Config.now0

end Sys2Proof.Machine
end

