-- ==== Sys2Proof/Machine/Ops.lean ====
section
/-! DEFINITION. The named operations over the state: the frame buffers, the clock, the timers' primitives, the record
slots, the event stream. The block has no trap (60_exceptions R350, R354, R355), so there is no exception entry and no
return from one among them. -/

namespace Sys2Proof.Machine

/-! ### Frame buffers (20_memory R91 to R93) -/

/-- The buffer number `k` (10_state R36). -/
def BufId.index : BufId → Nat
  | .a => 0
  | .b => 1

/-- The other role's buffer (10_state R37). -/
def BufId.other : BufId → BufId
  | .a => .b
  | .b => .a

/-- `addr(k, i) = k * BUF_CAP + i` (20_memory R91). -/
def cellAddr (cfg : Params) (k : BufId) (i : Nat) : Nat := k.index * cfg.bufCap + i

/-- The byte listed at an address; none where nothing has been written (10_state R36). -/
def Memory.read : Memory → Nat → Option Byte
  | [], _ => none
  | c :: m, a => if c.1 = a then some c.2 else Memory.read m a

/-- The memory with a byte at an address, in rising order of addresses. -/
def Memory.write : Memory → Nat → Byte → Memory
  | [], a, v => [(a, v)]
  | c :: m, a, v =>
    if a < c.1 then (a, v) :: c :: m
    else if a = c.1 then (a, v) :: m
    else c :: Memory.write m a v

/-- Every address listed lies above `lo`, in strictly rising order. -/
def Memory.risingFrom : Nat → Memory → Bool
  | _, [] => true
  | lo, c :: m => decide (lo ≤ c.1) && Memory.risingFrom (c.1 + 1) m

/-- The canonical form: addresses strictly rising. An address that is not listed has no value, so no entry can equal
what an unlisted address reads as. -/
def Memory.wf (m : Memory) : Bool := Memory.risingFrom 0 m

/-- The value of cell `i` of buffer `k`, if it has one. -/
def cell (s : State) (k : BufId) (i : Nat) : Option Byte := Memory.read s.mem (cellAddr s.cfg k i)

/-- `MemRead(addr(k, i), 1)`: a fault outside the buffer (20_memory R91) or where nothing was written (R93). -/
def memRead (s : State) (k : BufId) (i : Nat) : Except Fault Byte :=
  if i < s.cfg.bufCap then
    match cell s k i with
    | some v => .ok v
    | none => .error (.cellUnwritten k i)
  else .error (.cellOutOfRange k i)

/-- The state with byte `v` in cell `i` of buffer `k`. -/
def putCell (k : BufId) (i : Nat) (v : Byte) (s : State) : State :=
  { s with mem := Memory.write s.mem (cellAddr s.cfg k i) v }

/-- `MemWrite(addr(k, i), 1, v)`: a fault outside the buffer (20_memory R91). -/
def memWrite (k : BufId) (i : Nat) (v : Byte) (s : State) : Except Fault State :=
  if i < s.cfg.bufCap then .ok (putCell k i v s) else .error (.cellOutOfRange k i)

/-! ### Control phase, events, clock -/

/-- `phase <- p` (00_scope R11). -/
def setPhase (p : Phase) (s : State) : State := { s with phase := p }

/-- `emit E(args)`: append one event (30_encoding R140). -/
def emit (e : Event) (s : State) : State := { s with events := s.events ++ [e] }

/-- The event code of 30_encoding R142. -/
def Event.code : Event → BitVec 8
  | .publish _ _ => 0x01
  | .gpio _ _ => 0x02
  | .logShortGroup _ => 0x10
  | .logCksumFail _ _ _ => 0x11
  | .logOverflow => 0x12
  | .logUnknownTag _ => 0x13
  | .logFieldReject _ => 0x14
  | .logPeakTransition _ => 0x15
  | .logTimerMisuse _ _ => 0x16
  | .logCmdIllegal _ => 0x17

/-- The pin number (30_encoding R141). -/
def Pin.index : Pin → Nat
  | .health => 0
  | .peak => 1
  | .offpeak => 2

/-- The reason number of LOG_TIMER_MISUSE (30_encoding R142). -/
def Misuse.code : Misuse → Nat
  | .zeroDelay => 0
  | .alreadyArmed => 1

/-- A number reduced to the clock's width: `n mod 2^CLOCK_BITS` (00_scope R12). -/
def clockOf (cfg : Params) (n : Nat) : Word := BitVec.ofNat 32 (n % 2 ^ cfg.clockBits)

/-- `wadd(a, d) = (a + d) mod 2^CLOCK_BITS` (00_scope R12). -/
def wadd (cfg : Params) (a : Word) (d : Nat) : Word := clockOf cfg (a.toNat + d)

/-- `wsub(a, b) = (a - b) mod 2^CLOCK_BITS` on mathematical integers (00_scope R12). -/
def wsub (cfg : Params) (a b : Word) : Word :=
  clockOf cfg (((a.toNat : Int) - (b.toNat : Int)) % (2 ^ cfg.clockBits : Nat)).toNat

/-! ### Timers: the primitives of 42_softtimer R261 -/

/-- `S.tmr[t]`; a slot the bank does not have reads as a stopped timer, and no legal command names one (30_encoding
R124). -/
def TimerBank.get (m : TimerBank) : TimerId → SoftTimer
  | .minp => m.minp
  | .maxp => m.maxp
  | .stat => m.stat
  | .blnk => m.blnk
  | .wdog => m.wdog
  | .other k => m.others.getD k SoftTimer.zero

/-- The bank with `S.tmr[t]` replaced. -/
def TimerBank.set (m : TimerBank) (t : TimerId) (x : SoftTimer) : TimerBank :=
  match t with
  | .minp => { m with minp := x }
  | .maxp => { m with maxp := x }
  | .stat => { m with stat := x }
  | .blnk => { m with blnk := x }
  | .wdog => { m with wdog := x }
  | .other k => { m with others := m.others.set k x }

/-- The bank has slot `t` (10_state R45). -/
abbrev TimerBank.has (m : TimerBank) (t : TimerId) : Prop := t.index < 5 + m.others.length

/-- `S.tmr[t]`. -/
def timer (s : State) (t : TimerId) : SoftTimer := s.tmr.get t

/-- `S.tmr[t] <- x`. -/
def setTimer (t : TimerId) (x : SoftTimer) (s : State) : State := { s with tmr := s.tmr.set t x }

/-- `S.tmr[t].start <- v`. -/
def setStart (t : TimerId) (v : Word) (s : State) : State := setTimer t { timer s t with start := v } s

/-- T_CONFIGURE (42_softtimer R261): the start is kept. -/
def tConfigure (t : TimerId) (d : Word) (rep cben : Bool) (s : State) : State :=
  setTimer t { timer s t with delay := d, rep := rep, cben := cben } s

/-- T_SETDELAY (42_softtimer R261). -/
def tSetDelay (t : TimerId) (d : Word) (s : State) : State := setTimer t { timer s t with delay := d } s

/-- T_START (42_softtimer R261, R263): ZERO_DELAY is checked before ALREADY_ARMED. -/
def tStart (t : TimerId) (s : State) : State :=
  if (timer s t).delay = 0 then emit (.logTimerMisuse t .zeroDelay) s
  else if (timer s t).start ≠ 0 then emit (.logTimerMisuse t .alreadyArmed) s
  else setStart t s.now s

/-- T_RESTART (42_softtimer R261): unconditional. -/
def tRestart (t : TimerId) (s : State) : State := setStart t s.now s

/-- T_STOP (42_softtimer R261). -/
def tStop (t : TimerId) (s : State) : State := setStart t 0 s

/-- ELAPSED(t) (42_softtimer R268). -/
def elapsed (s : State) (t : TimerId) : Word := wsub s.cfg s.now (timer s t).start

/-- The test of T_POLL: armed, and the elapsed time exceeds the delay (42_softtimer R261). -/
def timerDue (s : State) (t : TimerId) : Bool :=
  decide ((timer s t).start ≠ 0) && decide ((timer s t).delay.toNat < (elapsed s t).toNat)

/-! ### Record slots (10_state R42) -/

/-- The field id `f` (10_state R42). -/
def FieldId.index : FieldId → Nat
  | .adsc => 0
  | .vtic => 1
  | .date => 2
  | .ngtf => 3
  | .ltarf => 4
  | .easf01 => 5
  | .easf02 => 6
  | .irms1 => 7
  | .urms1 => 8
  | .pref => 9
  | .sinsts => 10
  | .smaxsn => 11
  | .smaxsn1 => 12
  | .ccasn => 13
  | .ccasn1 => 14
  | .prm => 15
  | .ntarf => 16
  | .peak => 17

/-- The 17 fields with a wire tag, by ascending field id (30_encoding R136). -/
def wireFields : List FieldId :=
  [.adsc, .vtic, .date, .ngtf, .ltarf, .easf01, .easf02, .irms1, .urms1, .pref, .sinsts,
   .smaxsn, .smaxsn1, .ccasn, .ccasn1, .prm, .ntarf]

/-- The fields 0, 1, ..., 17. -/
def allFields : List FieldId := wireFields ++ [.peak]

/-- VALUE(f): the typed value of a slot (43_report R293). -/
def Record.value (r : Record) : FieldId → Value
  | .adsc => .text r.adsc
  | .vtic => .text r.vtic
  | .date => .text r.date
  | .ngtf => .text r.ngtf
  | .ltarf => .text r.ltarf
  | .easf01 => .u32 r.easf01
  | .easf02 => .u32 r.easf02
  | .irms1 => .u32 r.irms1
  | .urms1 => .u32 r.urms1
  | .pref => .u32 r.pref
  | .sinsts => .u32 r.sinsts
  | .smaxsn => .sample r.smaxsn
  | .smaxsn1 => .sample r.smaxsn1
  | .ccasn => .sample r.ccasn
  | .ccasn1 => .sample r.ccasn1
  | .prm => .text r.prm
  | .ntarf => .u32 r.ntarf
  | .peak => .bool r.peak

/-- `S.rec[f] <- v` for a value of the slot's type (10_state R42); a value of another type is not stored, and no
validator gives one (41_decoder R205). -/
def Record.put (r : Record) (f : FieldId) (v : Value) : Record :=
  match f, v with
  | .adsc, .text x => { r with adsc := x }
  | .vtic, .text x => { r with vtic := x }
  | .date, .text x => { r with date := x }
  | .ngtf, .text x => { r with ngtf := x }
  | .ltarf, .text x => { r with ltarf := x }
  | .easf01, .u32 x => { r with easf01 := x }
  | .easf02, .u32 x => { r with easf02 := x }
  | .irms1, .u32 x => { r with irms1 := x }
  | .urms1, .u32 x => { r with urms1 := x }
  | .pref, .u32 x => { r with pref := x }
  | .sinsts, .u32 x => { r with sinsts := x }
  | .smaxsn, .sample x => { r with smaxsn := x }
  | .smaxsn1, .sample x => { r with smaxsn1 := x }
  | .ccasn, .sample x => { r with ccasn := x }
  | .ccasn1, .sample x => { r with ccasn1 := x }
  | .prm, .text x => { r with prm := x }
  | .ntarf, .u32 x => { r with ntarf := x }
  | .peak, .bool x => { r with peak := x }
  | _, _ => r

/-! ### Indicator outputs (10_state R48) -/

/-- Write an indicator's level; every write emits GPIO(pin, level) (30_encoding R141). -/
def setLed (pin : Pin) (level : Bool) (s : State) : State :=
  emit (.gpio pin level)
    (match pin with
     | .health => { s with ledHealth := level }
     | .peak => { s with ledPeak := level }
     | .offpeak => { s with ledOffpeak := level })

/-! ### Outcomes -/

/-- The outcome of one step of this machine. -/
abbrev Out := Host.Outcome State Fault Refusal

/-- A computation that may fault, as an outcome. -/
def outcomeOf : Except Fault State → Out
  | .ok s => .next s
  | .error f => .fault f

end Sys2Proof.Machine
end

