-- ==== Sys2Proof/Machine/Flags.lean ====
section
/-! DEFINITION. Flags: the STATUS word and its write-one-to-clear bits (10_state R51), and the change mask
(10_state R43). -/

namespace Sys2Proof.Machine

/-- A word with bit `i` set to `b` and every other bit 0. -/
def bitAt (i : Nat) (b : Bool) : Word := if b then 1#32 <<< i else 0#32

/-- STATUS (10_state R51). -/
def statusWord (s : State) : Word :=
  bitAt 0 (decide (s.rxPhase = .receiving)) |||
  bitAt 1 s.sofSeen |||
  bitAt 2 s.decPending |||
  bitAt 3 (decide (s.rxSel = .b)) |||
  bitAt 4 s.healthy |||
  bitAt 5 s.ledHealth |||
  bitAt 6 s.ledPeak |||
  bitAt 7 s.ledOffpeak |||
  bitAt 8 s.record.peak |||
  bitAt 9 s.overrun |||
  bitAt 10 s.rxqLost |||
  bitAt 11 s.cmdErr |||
  bitAt 12 (decide (s.phase ≠ .ready))

/-- A write of `v` to STATUS: each of bits 9, 10 and 11 written as 1 clears its flag (10_state R51, 45_control R332). -/
def writeStatus (v : Word) (s : State) : State :=
  { s with
    overrun := s.overrun && !v.getLsbD 9
    rxqLost := s.rxqLost && !v.getLsbD 10
    cmdErr := s.cmdErr && !v.getLsbD 11 }

/-- The change mask with only bit `f` set: `1 << f`. -/
def changeBit (f : FieldId) : BitVec 18 := 1#18 <<< f.index

/-- `S.chg <- S.chg | (1 << f)` (41_decoder R219). -/
def markChanged (f : FieldId) (s : State) : State := { s with chg := s.chg ||| changeBit f }

/-- `S.chg[f] == 1`. -/
def isChanged (s : State) (f : FieldId) : Bool := s.chg.getLsbD f.index

end Sys2Proof.Machine
end

