-- ==== Sys2Proof/Machine/Operands.lean ====
section
/-! DEFINITION. Operands: the delay TCFG takes from DATA (30_encoding R123), and the tokens of a group with the forms the
validators read them in (41_decoder R201, R203, R204; 00_scope R13). -/

namespace Sys2Proof.Machine

/-- The delay operand of TCFG: `S.data mod 2^CLOCK_BITS` (30_encoding R123). -/
def delayOperand (s : State) : Word := clockOf s.cfg s.data.toNat

/-- `isdigit(c)` (00_scope R13). -/
def isDigit (c : Byte) : Bool := decide (0x30 ≤ c.toNat) && decide (c.toNat ≤ 0x39)

/-- `upper(c)` (00_scope R13). -/
def upper (c : Byte) : Byte := if 0x61 ≤ c.toNat ∧ c.toNat ≤ 0x7A then c - 0x20#8 else c

/-- `split(s, d)`: cut at every `d`, keeping empty pieces (00_scope R13). -/
def splitText (d : Byte) : Text → List Text
  | [] => [[]]
  | c :: cs =>
    if c = d then [] :: splitText d cs
    else
      match splitText d cs with
      | [] => [[c]]
      | t :: ts => (c :: t) :: ts

/-- The tokens of a group: the tag, the value, the secondary timestamp (41_decoder R201). -/
structure Tokens where
  tag : Text
  t1 : Text
  t2 : Option Text
  deriving DecidableEq, Repr

/-- TOKENIZE(s) (41_decoder R201): further tokens are ignored. -/
def tokenize (sep : Byte) (str : Text) : Tokens :=
  match splitText sep str with
  | [] => { tag := [], t1 := [], t2 := none }
  | [tag] => { tag := tag, t1 := [], t2 := none }
  | [tag, t1] => { tag := tag, t1 := t1, t2 := none }
  | tag :: t1 :: t2 :: _ => { tag := tag, t1 := t1, t2 := some t2 }

/-- The number a string of digits writes, most significant digit first, `acc` before it (41_decoder R203). -/
def digitsValue : Text → Nat → Nat
  | [], acc => acc
  | c :: cs, acc => digitsValue cs (10 * acc + (c.toNat - 0x30))

/-- PARSE_U32(t) (41_decoder R203): `some x` for `(true, x)`, none for `(false, 0)`. -/
def parseU32 (t : Text) : Option Word :=
  if t.isEmpty || !t.all isDigit then none
  else if 2 ^ 32 - 1 < digitsValue t 0 then none
  else some (BitVec.ofNat 32 (digitsValue t 0))

/-- TSHAPE(t) (41_decoder R204). -/
def tShape (cfg : Params) (t : Text) : Bool :=
  match t with
  | [] => false
  | c :: ds => decide (ds.length = 12) && (cfg.seasonSet.map upper).contains (upper c) && ds.all isDigit

/-- A fixed-length all-digit identifier (41_decoder R206, R217). -/
def allDigitsOfWidth (w : Nat) (t : Text) : Bool := decide (t.length = w) && t.all isDigit

/-- The distance of two numbers is at most `pct` percent of the second, exactly and inclusively
(41_decoder R213, R215): `100 * |x - base| <= pct * base`. -/
def withinPercent (pct x base : Nat) : Bool := decide (100 * ((x : Int) - (base : Int)).natAbs ≤ pct * base)

end Sys2Proof.Machine
end

