-- ==== Sys2Proof/Machine/FieldDecoder.lean ====
section
/-! DEFINITION. The field decoder (41_decoder): DECODE_OP and its parts, the validators of the 17 tags, and the command
DECODE. -/

namespace Sys2Proof.Machine

/-- `cstr(S.buf[k])` from cell `i` on (00_scope R13, 41_decoder R200), reading at most `fuel` cells. -/
def cstrFrom (s : State) (k : BufId) : Nat → Nat → Except Fault Text
  | i, 0 => .error (.cellOutOfRange k i)
  | i, fuel + 1 =>
    match memRead s k i with
    | .ok v => if v = 0x00#8 then .ok [] else (cstrFrom s k (i + 1) fuel).map fun rest => v :: rest
    | .error f => .error f

/-- `cstr(S.buf[k])`: the bytes up to the first 0x00. -/
def cstr (s : State) (k : BufId) : Except Fault Text := cstrFrom s k 0 s.cfg.bufCap

/-- The field id of a tag: a byte-for-byte match in TAG_NAMES (30_encoding R136, R137). -/
def fieldOfTag (cfg : Params) (tag : Text) : Option FieldId :=
  ((wireFields.zip cfg.tagNames).find? fun p => decide (p.2 = tag)).map Prod.fst

/-- UNKNOWN(tag) (41_decoder R202). -/
def unknownTag (tag : Text) (s : State) : State := emit (.logUnknownTag tag) { s with unkCnt := s.unkCnt + 1#32 }

/-- The monotonic energy index (41_decoder R211): at least the stored value. -/
def validateIndex (old : Word) (t1 : Text) : Option Value :=
  match parseU32 t1 with
  | some x => if old.toNat ≤ x.toNat then some (.u32 x) else none
  | none => none

/-- Nonzero (41_decoder R212, R218). -/
def validateNonzero (t1 : Text) : Option Value :=
  match parseU32 t1 with
  | some x => if x ≠ 0 then some (.u32 x) else none
  | none => none

/-- The voltage (41_decoder R213): above the floor, and near the stored value unless that is 0. -/
def validateVoltage (cfg : Params) (old : Word) (t1 : Text) : Option Value :=
  match parseU32 t1 with
  | some x =>
    if cfg.vFloor < x.toNat ∧ (old = 0 ∨ withinPercent cfg.vRelPct x.toNat old.toNat = true) then some (.u32 x)
    else none
  | none => none

/-- The reference power (41_decoder R214): not a forbidden value. -/
def validatePref (cfg : Params) (t1 : Text) : Option Value :=
  match parseU32 t1 with
  | some x => if x = cfg.prefForbidden.1 ∨ x = cfg.prefForbidden.2 then none else some (.u32 x)
  | none => none

/-- The apparent power (41_decoder R215): near current times voltage, exactly. -/
def validatePower (cfg : Params) (current voltage : Word) (t1 : Text) : Option Value :=
  match parseU32 t1 with
  | some x =>
    if withinPercent cfg.pRelPct x.toNat (current.toNat * voltage.toNat) = true then some (.u32 x) else none
  | none => none

/-- A sample with its timestamp (41_decoder R216). -/
def validateSample (cfg : Params) (t1 : Text) (t2 : Option Text) : Option Value :=
  match parseU32 t1, t2 with
  | some x, some ts => if tShape cfg ts = true then some (.sample { value := x, stamp := ts }) else none
  | _, _ => none

/-- VALIDATE_f(t1, t2) (41_decoder R205 to R218): the typed value when accepted, none when rejected. Field 17 has no
validator and no tag reaches it. -/
def validate (cfg : Params) (r : Record) (f : FieldId) (t1 : Text) (t2 : Option Text) : Option Value :=
  match f with
  | .adsc => if allDigitsOfWidth cfg.wAdsc t1 = true then some (.text t1) else none
  | .vtic => some (.text t1)
  | .date => if tShape cfg t1 = true then some (.text t1) else none
  | .ngtf => some (.text t1)
  | .ltarf => if t1 = cfg.litPeak ∨ t1 = cfg.litOffpeak then some (.text t1) else none
  | .easf01 => validateIndex r.easf01 t1
  | .easf02 => validateIndex r.easf02 t1
  | .irms1 => validateNonzero t1
  | .urms1 => validateVoltage cfg r.urms1 t1
  | .pref => validatePref cfg t1
  | .sinsts => validatePower cfg r.irms1 r.urms1 t1
  | .smaxsn => validateSample cfg t1 t2
  | .smaxsn1 => validateSample cfg t1 t2
  | .ccasn => validateSample cfg t1 t2
  | .ccasn1 => validateSample cfg t1 t2
  | .prm => if allDigitsOfWidth cfg.wPrm t1 = true then some (.text t1) else none
  | .ntarf => validateNonzero t1
  | .peak => none

/-- The flip of the peak indicator to `p` (41_decoder R220): the slot, its change bit, the two LEDs, the log. -/
def setPeak (p : Bool) (s : State) : State :=
  emit (.logPeakTransition p)
    (setLed .offpeak (!p) (setLed .peak p (markChanged .peak { s with record := { s.record with peak := p } })))

/-- PEAKFLIP(v) (41_decoder R220). -/
def peakFlip (v : Value) (s : State) : State :=
  let p := decide (v = .text s.cfg.litPeak)
  if p ≠ s.record.peak then setPeak p s else s

/-- UPDATE(f, v) (41_decoder R219). -/
def updateSlot (f : FieldId) (v : Value) (s : State) : State :=
  if v ≠ s.record.value f then
    let s1 := markChanged f { s with record := s.record.put f v }
    if f = .ltarf then peakFlip v s1 else s1
  else s

/-- REJECT(f) (41_decoder R221). -/
def rejectField (f : FieldId) (s : State) : State :=
  if s.cfg.logRejects then emit (.logFieldReject f) s else s

/-- A recognized field with its value tokens: validate, then update or reject (41_decoder R200). -/
def decodeField (f : FieldId) (tk : Tokens) (s : State) : State :=
  match validate s.cfg s.record f tk.t1 tk.t2 with
  | some v => updateSlot f v s
  | none => rejectField f s

/-- The group's string dispatched on its tag (41_decoder R200, R201). -/
def decodeText (str : Text) (s : State) : State :=
  match fieldOfTag s.cfg (tokenize s.cfg.sep str).tag with
  | some f => decodeField f (tokenize s.cfg.sep str) s
  | none => unknownTag (tokenize s.cfg.sep str).tag s

/-- DECODE_OP() (41_decoder R200). -/
def decodeOp (s : State) : Except Fault State :=
  if s.decPending then (cstr s s.rxSel.other).map fun str => decodeText str { s with decPending := false }
  else .ok s

/-- DECODE (41_decoder R222). -/
def execDecode (s : State) : Out := outcomeOf ((decodeOp s).map (setPhase .ready))

end Sys2Proof.Machine
end

