-- ==== Sys2Proof/Machine/Health.lean ====
section
/-! DEFINITION. The frame health monitor (44_health). -/

namespace Sys2Proof.Machine

/-- The part of CLASSIFY(h) that runs when the class changes (44_health R301): the class, and the status timer
reprogrammed and restarted. -/
def changeClass (h : Bool) (s : State) : State :=
  tRestart .stat (tSetDelay .stat (if h then s.cfg.blinkSlowMs else s.cfg.blinkFastMs) { s with healthy := h })

/-- CLASSIFY(h) (44_health R301): the watchdog is restarted by a healthy classification and stopped by a degraded one. -/
def classify (h : Bool) (s : State) : State :=
  let s1 := if h ≠ s.healthy then changeClass h s else s
  if h then tRestart .wdog s1 else tStop .wdog s1

/-- STATUS_BLINK (44_health R302): the health LED on, then the blink-off timer restarted. -/
def statusBlink (s : State) : State := tRestart .blnk (setLed .health true s)

/-- BLINK_OFF (44_health R303). -/
def blinkOff (s : State) : State := setLed .health false s

/-- WATCHDOG (44_health R304). -/
def watchdog (s : State) : State := classify false s

end Sys2Proof.Machine
end

