-- ==== Sys2Proof/Machine/Receiver.lean ====
section
/-! DEFINITION. The frame receiver (40_receiver): RXSTEP and its parts, and the commands RXBYTE and FEED. -/

namespace Sys2Proof.Machine

/-- IDLE_BYTE(b) (40_receiver R161). -/
def idleByte (b : Byte) (s : State) : State :=
  if b = s.cfg.sof then { s with frameStart := s.now, sofSeen := true }
  else if b = s.cfg.sog ∧ s.sofSeen = true then { s with rxPhase := .receiving, cursor := 0 }
  else s

/-- The duration FRAME_END measures (40_receiver R162). -/
def frameDuration (s : State) : Word := wsub s.cfg s.now s.frameStart

/-- FRAME_END() (40_receiver R162, 44_health R300). -/
def frameEnd (s : State) : State :=
  classify (decide ((frameDuration s).toNat < s.cfg.healthThresholdMs)) { s with lastDur := frameDuration s }

/-- ABORT_OVERFLOW() (40_receiver R164). -/
def abortOverflow (s : State) : State := { emit .logOverflow s with cursor := 0, rxPhase := .idle }

/-- STORE(b) after its write: advance the cursor, and abort when it reaches `BUF_CAP - 1` (40_receiver R163). -/
def advanceCursor (s : State) : State :=
  if s.cursor + 1 = s.cfg.bufCap - 1 then abortOverflow { s with cursor := s.cursor + 1 }
  else { s with cursor := s.cursor + 1 }

/-- STORE(b) (40_receiver R163). -/
def storeByte (b : Byte) (s : State) : Except Fault State :=
  (memWrite s.rxSel s.cursor b s).map advanceCursor

/-- The sum of `n` cells of a buffer from cell `i` on (40_receiver R168). -/
def sumCells (s : State) (k : BufId) : Nat → Nat → Except Fault Nat
  | _, 0 => .ok 0
  | i, n + 1 =>
    match memRead s k i with
    | .ok v => (sumCells s k (i + 1) n).map fun rest => v.toNat + rest
    | .error f => .error f

/-- The checksum a sum of bytes asks for: `(s & CK_MASK) + CK_OFFSET` (40_receiver R168). -/
def checksumOf (cfg : Params) (sum : Nat) : Nat := (sum &&& cfg.ckMask) + cfg.ckOffset

/-- SHORT_GROUP(n) (40_receiver R169). -/
def shortGroup (n : Nat) (s : State) : State := { emit (.logShortGroup n) s with cursor := 0 }

/-- CKFAIL(n) (40_receiver R167). -/
def ckFail (n expected : Nat) (received : Byte) (s : State) : State :=
  { emit (.logCksumFail n expected received) s with cursor := 0 }

/-- SUCCEED(ci) after its write: the pending flag, the overrun flag and the swap of roles (40_receiver R166). -/
def swapRoles (s : State) : State :=
  { s with
    overrun := s.overrun || s.decPending
    decPending := true
    rxSel := s.rxSel.other
    cursor := 0 }

/-- SUCCEED(ci) (40_receiver R166). -/
def succeed (ci : Nat) (s : State) : Except Fault State := (memWrite s.rxSel (ci - 1) 0x00#8 s).map swapRoles

/-- The checksum test of a group of `n` bytes and what follows from it (40_receiver R165, R168). -/
def checkGroup (n : Nat) (s : State) : Except Fault State :=
  match sumCells s s.rxSel 0 (n - 1), memRead s s.rxSel (n - 1) with
  | .ok sum, .ok received =>
    if received.toNat = checksumOf s.cfg sum then succeed (n - 1) s
    else .ok (ckFail n (checksumOf s.cfg sum) received s)
  | .error f, _ => .error f
  | .ok _, .error f => .error f

/-- COMPLETE() after the terminating write, for a group of `n` bytes: the length test comes first (40_receiver R165). -/
def judgeGroup (n : Nat) (s : State) : Except Fault State :=
  if n < s.cfg.minGroupLen then .ok (shortGroup n s) else checkGroup n s

/-- `S.rx_phase <- IDLE`. -/
def toIdle (s : State) : State := { s with rxPhase := .idle }

/-- COMPLETE() (40_receiver R165). -/
def complete (s : State) : Except Fault State :=
  match memWrite s.rxSel s.cursor 0x00#8 s with
  | .ok s1 => (judgeGroup s.cursor s1).map toIdle
  | .error f => .error f

/-- The phase-dependent handling of a byte (40_receiver R160). -/
def phaseByte (b : Byte) (s : State) : Except Fault State :=
  match s.rxPhase with
  | .idle => .ok (idleByte b s)
  | .receiving => if b = s.cfg.eog then complete s else storeByte b s

/-- RXSTEP(b) (40_receiver R160): the end-of-frame handling first, in either phase. -/
def rxStep (b : Byte) (s : State) : Except Fault State :=
  phaseByte b (if b = s.cfg.eof then frameEnd s else s)

/-- FEEDSTEP(next) (40_receiver R173): with the queue empty go on to `next`, else take one byte and stay in `loop`. -/
def feedStep (loop next : Phase) (s : State) : Except Fault State :=
  match s.rxq with
  | [] => .ok (setPhase next s)
  | b :: q => (rxStep b { s with rxq := q }).map (setPhase loop)

/-- RXBYTE b (40_receiver R171). -/
def execRxbyte (b : Byte) (s : State) : Out := outcomeOf ((rxStep b s).map (setPhase .ready))

/-- The next microstep of FEED (40_receiver R172, R173). -/
def execFeed (s : State) : Out := outcomeOf (feedStep .feedLoop .ready s)

end Sys2Proof.Machine
end

