-- ==== Sys2Proof/Machine/Report.lean ====
section
/-! DEFINITION. The report scheduler's callbacks (43_report). -/

namespace Sys2Proof.Machine

/-- The PUBLISH events of some fields, in the order given, each with its current typed value (43_report R293). -/
def publishEvents (s : State) (fs : List FieldId) : List Event :=
  fs.map fun f => .publish f (s.record.value f)

/-- REPORT_MIN (43_report R290): the changed fields by ascending field id, then the mask is cleared. -/
def reportMin (s : State) : State :=
  { s with events := s.events ++ publishEvents s (allFields.filter (isChanged s)), chg := 0 }

/-- REPORT_MAX (43_report R291): all 18 fields by ascending field id, then the mask is cleared. -/
def reportMax (s : State) : State :=
  { s with events := s.events ++ publishEvents s allFields, chg := 0 }

end Sys2Proof.Machine
end

