-- ==== Sys2Proof/Machine/Timers.lean ====
section
/-! DEFINITION. The software timers (42_softtimer): polling with callback dispatch, and the six timer commands. -/

namespace Sys2Proof.Machine

/-- CALLBACK(t): the callback bound to a slot (10_state R46, 42_softtimer R269). Neither rule binds one to a slot from 5 on
(log 12). -/
def callback : TimerId → State → State
  | .minp, s => reportMin s
  | .maxp, s => reportMax s
  | .stat, s => statusBlink s
  | .blnk, s => blinkOff s
  | .wdog, s => watchdog s
  | .other _, s => s

/-- The timer's own update when it fires: a repeating timer re-arms from now, a one-shot stops (42_softtimer R261). -/
def rearm (t : TimerId) (s : State) : State :=
  if (timer s t).rep then setStart t s.now s else setStart t 0 s

/-- A due timer fires: its own update first, then its callback if enabled (42_softtimer R261, R266). -/
def fire (t : TimerId) (s : State) : State :=
  if (timer s t).cben then callback t (rearm t s) else rearm t s

/-- T_POLL(t) (42_softtimer R261). -/
def tPoll (t : TimerId) (s : State) : State := if timerDue s t then fire t s else s

/-- TCFG t, rep, cb (42_softtimer R262): the delay is `S.data mod 2^CLOCK_BITS`. -/
def execTcfg (t : TimerId) (rep cben : Bool) (s : State) : Out :=
  .next (setPhase .ready (tConfigure t (delayOperand s) rep cben s))

/-- TSTART t (42_softtimer R263). -/
def execTstart (t : TimerId) (s : State) : Out := .next (setPhase .ready (tStart t s))

/-- TRESTART t (42_softtimer R264). -/
def execTrestart (t : TimerId) (s : State) : Out := .next (setPhase .ready (tRestart t s))

/-- TSTOP t (42_softtimer R265). -/
def execTstop (t : TimerId) (s : State) : Out := .next (setPhase .ready (tStop t s))

/-- TPOLL t (42_softtimer R266). -/
def execTpoll (t : TimerId) (s : State) : Out := .next (setPhase .ready (tPoll t s))

/-- The microstep that polls timer `t` of a sequence and moves on to the next slot, or to READY after the last
(45_control R321). -/
def pollTimerStep (toPhase : TimerId → Phase) (t : TimerId) (s : State) : State :=
  setPhase (match t.next s.cfg.nTimers with
    | some u => toPhase u
    | none => .ready) (tPoll t s)

/-- The slot TPOLLALL polls in a state: the one its phase names, the first when TPOLLALL is not under way (log 8). -/
def tpollallSlot (s : State) : TimerId :=
  match s.phase with
  | .tpa t => t
  | _ => .minp

/-- The next microstep of TPOLLALL (42_softtimer R267, 45_control R321). -/
def execTpollall (s : State) : Out := .next (pollTimerStep .tpa (tpollallSlot s) s)

end Sys2Proof.Machine
end

