-- ==== Sys2Proof/Machine/Control.lean ====
section
/-! DEFINITION. The commands of no unit (45_control): NOP and POLL. -/

namespace Sys2Proof.Machine

/-- NOP (45_control R322). -/
def execNop (s : State) : Out := .next (setPhase .ready s)

/-- POLL_DEC (45_control R323): finish any pending decode. -/
def pollDecode (s : State) : Except Fault State := (decodeOp s).map (setPhase .pollFeed)

/-- The next microstep of POLL (45_control R323): the one its phase names, the first when POLL is not under way
(log 8). -/
def execPoll (s : State) : Out :=
  match s.phase with
  | .pollFeed => outcomeOf (feedStep .pollFeed (.pollTmr .minp) s)
  | .pollTmr t => .next (pollTimerStep .pollTmr t s)
  | _ => outcomeOf (pollDecode s)

end Sys2Proof.Machine
end

