-- ==== Sys2Proof/Machine/Dispatch.lean ====
section
/-! DEFINITION. The dispatch: one arm per command (30_encoding R121). `exec i s` is the next microstep of command `i`
(45_control R321; log 8). -/

namespace Sys2Proof.Machine

def exec (i : Instr) (s : State) : Host.Outcome State Fault Refusal :=
  match i with
  | .nop => Sys2Proof.Machine.execNop s
  | .poll => Sys2Proof.Machine.execPoll s
  | .decode => Sys2Proof.Machine.execDecode s
  | .feed => Sys2Proof.Machine.execFeed s
  | .rxbyte b => Sys2Proof.Machine.execRxbyte b s
  | .tcfg t rep cben => Sys2Proof.Machine.execTcfg t rep cben s
  | .tstart t => Sys2Proof.Machine.execTstart t s
  | .trestart t => Sys2Proof.Machine.execTrestart t s
  | .tstop t => Sys2Proof.Machine.execTstop t s
  | .tpoll t => Sys2Proof.Machine.execTpoll t s
  | .tpollall => Sys2Proof.Machine.execTpollall s

end Sys2Proof.Machine
end

