-- ==== Sys2Proof/WellFormed.lean ====
section
/-! DEFINITION. What is well formed: a command, a command word (30_encoding R124) and a parameter set (00_scope R9,
30_encoding R136). -/

namespace Sys2Proof

/-- A slot a command word can name in a block of `n` slots: below N_TIMERS (30_encoding R122) and within the four bits of
the field T (R120). -/
def TimerId.wellFormed (n : Nat) (t : TimerId) : Bool := decide (t.index < n) && decide (t.index < 16)

/-- A legal command in a block of `n` timer slots: its slot, if it has one, is well formed (30_encoding R122, R124). -/
def Instr.wellFormed (n : Nat) : Instr → Bool
  | .nop => true
  | .poll => true
  | .decode => true
  | .feed => true
  | .rxbyte _ => true
  | .tcfg t _ _ => t.wellFormed n
  | .tstart t => t.wellFormed n
  | .trestart t => t.wellFormed n
  | .tstop t => t.wellFormed n
  | .tpoll t => t.wellFormed n
  | .tpollall => true

/-- A legal command word: the negation of `ILLEGAL(w)` of 45_control R320. The opcode is below 0xB, and a timer
command (OP 0x5 to 0x9) names a slot below N_TIMERS, here `n`. -/
def legalWord (n : Nat) (w : Word) : Bool :=
  let op := (w.extractLsb' 28 4).toNat
  let t := (w.extractLsb' 24 4).toNat
  decide (op < 0xB) && (!(decide (5 ≤ op) && decide (op ≤ 9)) || decide (t < n))

/-- The five control bytes are pairwise distinct (00_scope R9). -/
def Params.controlBytesDistinct (c : Params) : Bool :=
  decide ([c.sof, c.eof, c.sog, c.eog, c.sep].Nodup)

/-- TAG_NAMES holds 17 pairwise distinct, non-empty byte strings without SEP and without 0x00 (30_encoding R136). -/
def Params.tagNamesOk (c : Params) : Bool :=
  decide (c.tagNames.length = 17) && decide c.tagNames.Nodup &&
    c.tagNames.all fun t => !t.isEmpty && t.all fun b => b != c.sep && b != 0x00#8

/-- A delay of the clock's width (10_state R45; log 13). -/
def Params.fitsClock (c : Params) (d : Word) : Bool :=
  decide (d.toNat < 2 ^ c.clockBits)

/-- The constraints on the parameters: the seven of 00_scope R9, the table of 30_encoding R136, the two widths of at
least one byte (41_decoder R206, R217), the four periods that are stored in a timer's delay (log 13, log 14), and a timer
bank with at least the five slots that 10_state R46 binds (log 12). -/
def Params.wellFormed (c : Params) : Bool :=
  decide (10 ≤ c.bufCap) && decide (3 ≤ c.minGroupLen) && decide (c.minGroupLen ≤ c.bufCap - 2) &&
  decide (1 ≤ c.clockBits) && decide (c.clockBits ≤ 32) && decide (1 ≤ c.rxqDepth) &&
  c.controlBytesDistinct && decide (c.litPeak ≠ c.litOffpeak) && c.tagNamesOk &&
  decide (1 ≤ c.wAdsc) && decide (1 ≤ c.wPrm) &&
  c.fitsClock c.blinkSlowMs && c.fitsClock c.blinkFastMs && c.fitsClock c.blinkOnMs && c.fitsClock c.wdogMs &&
  decide (5 ≤ c.nTimers)

end Sys2Proof
end

