-- ==== Sys2Proof/Decode.lean ====
section
/-! DEFINITION. The decoder of command words (30_encoding R120 to R124), total and rejecting by name, and after it the
encoder (30_encoding R125). -/

namespace Sys2Proof

/-- Why a word is no command. Each is `ILLEGAL(w)` of 45_control R320 but `notOneWord`. -/
inductive DecodeReject where
  /-- OP in 0xB..0xF (30_encoding R124 item 1). -/
  | reservedOpcode (op : BitVec 4)
  /-- A timer command with `T >= N_TIMERS` (30_encoding R124 item 2). -/
  | noSuchTimer (op : BitVec 4) (t : BitVec 4)
  /-- Not four bytes: a command is one 32-bit word (30_encoding R120). -/
  | notOneWord (bytes : Nat)
  deriving DecidableEq, Repr

/-- OP, bits 31:28 (30_encoding R120). -/
def opField (w : Word) : BitVec 4 := w.extractLsb' 28 4

/-- T, bits 27:24 (30_encoding R120). -/
def timerField (w : Word) : BitVec 4 := w.extractLsb' 24 4

/-- IMM, bits 7:0 (30_encoding R120). -/
def immField (w : Word) : Byte := w.extractLsb' 0 8

/-- The slot a field T names, legal when below N_TIMERS, here `n` (30_encoding R122). -/
def timerOfField (n : Nat) (t : BitVec 4) : Option TimerId :=
  if t.toNat < n then some (TimerId.ofIndex t.toNat) else none

/-- A timer command over the slot its word names (30_encoding R122, R124 item 2). -/
def decodeTimer (n : Nat) (w : Word) (mk : TimerId → Instr) : Except DecodeReject Instr :=
  match timerOfField n (timerField w) with
  | some t => .ok (mk t)
  | none => .error (.noSuchTimer (opField w) (timerField w))

/-- The command a word stands for in a block of `n` timer slots (30_encoding R121, R122, R124). Bits a command does not use
are ignored. -/
def decode (n : Nat) (w : Word) : Except DecodeReject Instr :=
  match (opField w).toNat with
  | 0x0 => .ok .nop
  | 0x1 => .ok .poll
  | 0x2 => .ok .decode
  | 0x3 => .ok .feed
  | 0x4 => .ok (.rxbyte (immField w))
  | 0x5 => decodeTimer n w fun t => .tcfg t ((immField w).getLsbD 0) ((immField w).getLsbD 1)
  | 0x6 => decodeTimer n w .tstart
  | 0x7 => decodeTimer n w .trestart
  | 0x8 => decodeTimer n w .tstop
  | 0x9 => decodeTimer n w .tpoll
  | 0xA => .ok .tpollall
  | _ => .error (.reservedOpcode (opField w))

/-- The word on four byte lanes: lane `j` carries bits `[8j+7:8j]` (20_memory R94; log 20). -/
def wordOfLanes (b0 b1 b2 b3 : Byte) : Word := b3 ++ b2 ++ b1 ++ b0

/-- The decoder on any bytes: a command is four of them. -/
def decodeBytes (n : Nat) : List Byte → Except DecodeReject Instr
  | [b0, b1, b2, b3] => decode n (wordOfLanes b0 b1 b2 b3)
  | bs => .error (.notOneWord bs.length)

/-- Byte lane `j` of the word made of bits `w` (20_memory R94). -/
def laneOf (w j : Nat) : Byte := BitVec.ofNat 8 (w / 2 ^ (8 * j))

/-- The instruction the decoder reads from the `nbits` bits of `w`, bit 0 the least significant bit of the word, with the
N_TIMERS that `State.reset` has. -/
def decodeTableWord (nbits w : Nat) : Option Instr :=
  let v := w % 2 ^ nbits
  if nbits ≤ 32 then
    match decodeBytes Config.params.nTimers [laneOf v 0, laneOf v 1, laneOf v 2, laneOf v 3] with
    | .ok i => some i
    | .error _ => none
  else none

/-- The word `(OP << 28) | (t << 24) | imm`, RSV written as 0 (30_encoding R120, R125). -/
def commandWord (op t : BitVec 4) (imm : Byte) : Word := op ++ t ++ 0#16 ++ imm

/-- The field T of a slot (30_encoding R122). -/
def TimerId.field (t : TimerId) : BitVec 4 := BitVec.ofNat 4 t.index

/-- IMM of TCFG: REPEAT is bit 0, CB is bit 1 (30_encoding R120, R125). -/
def tcfgImm (rep cben : Bool) : Byte := 0#6 ++ BitVec.ofBool cben ++ BitVec.ofBool rep

/-- The word a command assembles to (30_encoding R125). -/
def encode : Instr → Word
  | .nop => commandWord 0x0 0 0
  | .poll => commandWord 0x1 0 0
  | .decode => commandWord 0x2 0 0
  | .feed => commandWord 0x3 0 0
  | .rxbyte b => commandWord 0x4 0 b
  | .tcfg t rep cben => commandWord 0x5 t.field (tcfgImm rep cben)
  | .tstart t => commandWord 0x6 t.field 0
  | .trestart t => commandWord 0x7 t.field 0
  | .tstop t => commandWord 0x8 t.field 0
  | .tpoll t => commandWord 0x9 t.field 0
  | .tpollall => commandWord 0xA 0 0

/-- The bits of a word that the command it stands for reads; the rest is ignored (30_encoding R121, R124 item 4). -/
def usedBits : Instr → Word
  | .nop => 0xF0000000#32
  | .poll => 0xF0000000#32
  | .decode => 0xF0000000#32
  | .feed => 0xF0000000#32
  | .rxbyte _ => 0xF00000FF#32
  | .tcfg _ _ _ => 0xFF000003#32
  | .tstart _ => 0xFF000000#32
  | .trestart _ => 0xFF000000#32
  | .tstop _ => 0xFF000000#32
  | .tpoll _ => 0xFF000000#32
  | .tpollall => 0xF0000000#32

end Sys2Proof
end

