-- ==== Sys2Proof/Machine/Environment.lean ====
section
/-! DEFINITION. The register window (10_state R50 to R54), command submission (45_control R320, R326, R327), and the
environment steps (45_control R330 to R333, 70_reset R380). -/

namespace Sys2Proof.Machine

/-- The registers of the window (10_state R50). -/
inductive Reg where
  | status | chgmask | cmd | data | now | fstart | lastdur | unkcnt | rxqcnt | rxcur
  | tdelay (t : TimerId)
  | tstart (t : TimerId)
  | tmode (t : TimerId)
  deriving DecidableEq, Repr

/-- The register at an offset; none at a reserved offset (10_state R50). -/
def regAt (off : Nat) : Option Reg :=
  match off with
  | 0x00 => some .status
  | 0x04 => some .chgmask
  | 0x08 => some .cmd
  | 0x0C => some .data
  | 0x10 => some .now
  | 0x14 => some .fstart
  | 0x18 => some .lastdur
  | 0x1C => some .unkcnt
  | 0x20 => some .rxqcnt
  | 0x24 => some .rxcur
  | 0x30 => some (.tdelay .minp)
  | 0x34 => some (.tstart .minp)
  | 0x38 => some (.tmode .minp)
  | 0x40 => some (.tdelay .maxp)
  | 0x44 => some (.tstart .maxp)
  | 0x48 => some (.tmode .maxp)
  | 0x50 => some (.tdelay .stat)
  | 0x54 => some (.tstart .stat)
  | 0x58 => some (.tmode .stat)
  | 0x60 => some (.tdelay .blnk)
  | 0x64 => some (.tstart .blnk)
  | 0x68 => some (.tmode .blnk)
  | 0x70 => some (.tdelay .wdog)
  | 0x74 => some (.tstart .wdog)
  | 0x78 => some (.tmode .wdog)
  | _ => none

/-- TMODE_t: bit 0 repeat, bit 1 cben (10_state R50). -/
def modeWord (x : SoftTimer) : Word := bitAt 0 x.rep ||| bitAt 1 x.cben

/-- `reg(NAME)`: what a read of a register returns (10_state R50 to R54; log 15 for the two counts). -/
def readReg (s : State) : Reg → Word
  | .status => statusWord s
  | .chgmask => s.chg.zeroExtend 32
  | .cmd => 0#32
  | .data => s.data
  | .now => s.now
  | .fstart => s.frameStart
  | .lastdur => s.lastDur
  | .unkcnt => s.unkCnt
  | .rxqcnt => BitVec.ofNat 32 s.rxq.length
  | .rxcur => BitVec.ofNat 32 s.cursor
  | .tdelay t => (timer s t).delay
  | .tstart t => (timer s t).start
  | .tmode t => modeWord (timer s t)

/-- What an aligned 32-bit read at an offset returns; a reserved offset reads 0 (10_state R50). -/
def readOffset (s : State) (off : Nat) : Word :=
  match regAt off with
  | some r => readReg s r
  | none => 0#32

/-- The phase an accepted command sets (45_control R320). -/
def acceptPhase : Instr → Phase
  | .nop => .exec .nop
  | .poll => .pollDec
  | .decode => .exec .decode
  | .feed => .feedLoop
  | .rxbyte b => .exec (.rxbyte b)
  | .tcfg t rep cben => .exec (.tcfg t rep cben)
  | .tstart t => .exec (.tstart t)
  | .trestart t => .exec (.trestart t)
  | .tstop t => .exec (.tstop t)
  | .tpoll t => .exec (.tpoll t)
  | .tpollall => .tpa .minp

/-- ILLEGAL_CMD(w) (45_control R326). -/
def illegalCmd (w : Word) (s : State) : State := emit (.logCmdIllegal w) { s with cmdErr := true }

/-- BUSY_WRITE(w) (45_control R327): the word is dropped. -/
def busyWrite (s : State) : State := { s with cmdErr := true }

/-- A command word taken in READY (45_control R320). -/
def submit (w : Word) (s : State) : State :=
  match decode s.cfg.nTimers w with
  | .ok i => setPhase (acceptPhase i) s
  | .error _ => illegalCmd w s

/-- CMD_WRITE(w) (45_control R320): the busy check comes first. -/
def cmdWrite (w : Word) (s : State) : State := if s.phase ≠ .ready then busyWrite s else submit w s

/-- An aligned 32-bit write at an offset (45_control R332): STATUS, CMD and DATA take it, every other offset ignores it. -/
def writeOffset (off : Nat) (v : Word) (s : State) : State :=
  match regAt off with
  | some .status => writeStatus v s
  | some .cmd => cmdWrite v s
  | some .data => { s with data := v }
  | _ => s

/-- A 32-bit access at a multiple of 4 (20_memory R95). -/
def accessOk (off width : Nat) : Bool := decide (width = 32) && decide (off % 4 = 0)

/-- ARRIVE(b) (45_control R330). -/
def arrive (b : Byte) (s : State) : State :=
  if s.rxq.length < s.cfg.rxqDepth then { s with rxq := s.rxq ++ [b] } else { s with rxqLost := true }

/-- TICK(d) (45_control R331). -/
def tick (d : Nat) (s : State) : State := { s with now := wadd s.cfg s.now d }

/-- A 32-bit read at an offset of the window (45_control R332): the value goes to the host's bus, nothing of the block
changes. -/
def readWindow (off width : Nat) (s : State) : State :=
  if accessOk off width then { s with busReply := .value (readOffset s off) } else { s with busReply := .refused }

/-- A 32-bit write at an offset of the window (45_control R332). -/
def writeWindow (off width : Nat) (v : Word) (s : State) : State :=
  if accessOk off width then { writeOffset off v s with busReply := .written } else { s with busReply := .refused }

/-- An access at an address: "every offset in this spec is relative to" BASE (20_memory R98). An address below BASE is none
of the block's, and nothing of the block changes (log 16). -/
def atOffset (addr : Nat) (access : Nat → State → State) (s : State) : State :=
  if s.cfg.base ≤ addr then access (addr - s.cfg.base) s else { s with busReply := .notMine }

/-- A host read (45_control R332). -/
def hostRead (addr width : Nat) (s : State) : State := atOffset addr (fun off => readWindow off width) s

/-- A host write (45_control R332). -/
def hostWrite (addr width : Nat) (v : Word) (s : State) : State := atOffset addr (fun off => writeWindow off width v) s

/-- RESET (45_control R333, 70_reset R380, R383): every field at its reset value but the clock; the events already
emitted stay. The parameters and the turns to come are no state of the block. -/
def resetBlock (s : State) : State :=
  { State.initial s.cfg s.now with events := s.events, turns := s.turns }

/-- One environment step (45_control R330 to R333). -/
def envStep : EnvAction → State → State
  | .arrive b, s => arrive b s
  | .tick d, s => tick d s
  | .hostRead addr width, s => hostRead addr width s
  | .hostWrite addr width v, s => hostWrite addr width v s
  | .reset, s => resetBlock s

end Sys2Proof.Machine
end

