-- ==== Sys2Proof/Machine/Step.lean ====
section
/-! DEFINITION. One step of the whole system (45_control R321, R334): the environment step whose turn it is, or the
block's one enabled microstep. -/

namespace Sys2Proof.Machine

/-- The command in progress (10_state R31); none in READY. -/
def Phase.command : Phase → Option Instr
  | .ready => none
  | .exec c => some c
  | .pollDec => some .poll
  | .pollFeed => some .poll
  | .pollTmr _ => some .poll
  | .feedLoop => some .feed
  | .tpa _ => some .tpollall

/-- The block's microstep (45_control R321). In READY none is enabled and the block keeps its state (60_exceptions R364;
log 4). -/
def microstep (s : State) : Host.Outcome State Fault Refusal :=
  match s.phase.command with
  | some i => exec i s
  | none => .next s

/-- One step of a run (45_control R334; log 3): the turn at the head of `turns` is taken off the list and its step is
made; with no turn listed the block moves. -/
def step (s : State) : Host.Outcome State Fault Refusal :=
  match s.turns with
  | [] => microstep s
  | .block :: ts => microstep { s with turns := ts }
  | .env a :: ts => .next (envStep a { s with turns := ts })

/-- The command word of the `nbits` bits of `w`, every bit above them 0. -/
def tableWord (nbits w : Nat) : Word := BitVec.ofNat 32 (w % 2 ^ nbits)

/-- The turns with the block's first, so that the very next step is a microstep. -/
def blockFirst : List Turn → List Turn
  | [] => []
  | ts => .block :: ts

/-- The state in which the host has just written that word to CMD while the block was READY, and the block moves next
(45_control R320; log 5). A word that is no command leaves the block READY with CMDERR set (45_control R326). -/
def State.withFetchWord (s : State) (nbits w : Nat) : State :=
  cmdWrite (tableWord nbits w) { s with phase := .ready, turns := blockFirst s.turns }

end Sys2Proof.Machine
end

