-- ==== Sys2Proof/Safety.lean ====
section
/-! DEFINITION. What counts as a safe state and a safe run: the invariant of 10_state R56 with what it needs to hold of
itself, and runs of several steps. -/

namespace Sys2Proof.Machine

/-- A phase of 10_state R31 in a block of `n` timer slots: a latched command is a legal one of those done in one microstep
("single-step command `c` latched"), and a timer under poll is one of the bank. -/
def Phase.ok (n : Nat) : Phase → Bool
  | .exec c => c.isSingleStep && c.wellFormed n
  | .pollTmr t => decide (t.index < n)
  | .tpa t => decide (t.index < n)
  | .ready => true
  | .pollDec => true
  | .pollFeed => true
  | .feedLoop => true

/-- A clock value: below `2^CLOCK_BITS` (10_state R32). -/
def clockValue (cfg : Params) (v : Word) : Prop := v.toNat < 2 ^ cfg.clockBits

/-- A timer whose delay and start are of clock width (10_state R45). -/
def timerValues (cfg : Params) (x : SoftTimer) : Prop := clockValue cfg x.delay ∧ clockValue cfg x.start

/-- The texts of a typed value are at most `n` bytes long (10_state R42). -/
def Value.fits (n : Nat) : Value → Prop
  | .text t => t.length ≤ n
  | .u32 _ => True
  | .sample x => x.stamp.length ≤ n
  | .bool _ => True

/-- Buffer `k` holds a string: a 0x00 byte below index `BUF_CAP - 3` with every cell before it written (10_state R56
item 3). -/
def holdsString (s : State) (k : BufId) : Prop :=
  ∃ n, n < s.cfg.bufCap - 3 ∧ cell s k n = some 0x00#8 ∧ ∀ i, i < n → (cell s k i).isSome = true

/-- The invariant: the five items of 10_state R56 (the fifth, `S.chg < 2^18`, by the type of `chg`), the canonical form
and the extent of the frame buffer space (20_memory R91), the written cells of the group under way (40_receiver R170), the
widths of 10_state R32, R39, R40, R42 and R45, a bank of N_TIMERS slots (R45), and well-formed parameters (00_scope
R9). -/
structure Invariant (s : State) : Prop where
  params : s.cfg.wellFormed = true
  phase : s.phase.ok s.cfg.nTimers = true
  cursor : s.cursor ≤ s.cfg.bufCap - 2
  idle : s.rxPhase = .idle → s.cursor = 0
  armed : s.rxPhase = .receiving → s.sofSeen = true
  stored : s.rxPhase = .receiving → ∀ i, i < s.cursor → (cell s s.rxSel i).isSome = true
  pending : s.decPending = true → holdsString s s.rxSel.other
  canonical : Memory.wf s.mem = true
  extent : ∀ c, c ∈ s.mem → c.1 < 2 * s.cfg.bufCap
  queue : s.rxq.length ≤ s.cfg.rxqDepth
  texts : ∀ f, (s.record.value f).fits (s.cfg.bufCap - 4)
  now : clockValue s.cfg s.now
  frameStart : clockValue s.cfg s.frameStart
  lastDur : clockValue s.cfg s.lastDur
  timers : ∀ t, timerValues s.cfg (timer s t)
  slots : 5 + s.tmr.others.length = s.cfg.nTimers

/-- `n` steps of the system, stopping at the first fault or refusal. -/
def runSteps : Nat → State → Out
  | 0, s => .next s
  | n + 1, s =>
    match step s with
    | .next t => runSteps n t
    | .fault f => .fault f
    | .refused r => .refused r

/-- The commands RXBYTE of a byte string, one after the other, as FEEDB sends them (30_encoding R127). -/
def rxbytes : Text → State → Out
  | [], s => .next s
  | b :: bs, s =>
    match exec (.rxbyte b) s with
    | .next t => rxbytes bs t
    | .fault f => .fault f
    | .refused r => .refused r

/-- The sum of the byte values of a string. -/
def byteSum (t : Text) : Nat := (t.map BitVec.toNat).sum

/-- Buffer `k` holds the bytes of `g` in its first cells. -/
def holdsBytes (s : State) (k : BufId) (g : Text) : Prop := ∀ i (h : i < g.length), cell s k i = some g[i]

/-- `cstr(S.buf[k])` is `str` (00_scope R13): its bytes are not 0x00 and a 0x00 follows them. -/
def holdsCstr (s : State) (k : BufId) (str : Text) : Prop :=
  holdsBytes s k str ∧ (0x00#8 ∉ str) ∧ cell s k str.length = some 0x00#8

/-- `t` is a string of decimal digits and writes the number `x`, most significant digit first: the formula of
41_decoder R203. -/
def writesNumber (t : Text) (x : Nat) : Prop :=
  t ≠ [] ∧ (∀ c, c ∈ t → 0x30 ≤ c.toNat ∧ c.toNat ≤ 0x39) ∧
    x = ((List.range t.length).map fun i => ((t.getD i 0).toNat - 0x30) * 10 ^ (t.length - 1 - i)).sum

/-! ### The words statements are made in -/

/-- `ILLEGAL(w)` in the arithmetic of 45_control R320: the opcode is 0xB or above, or it is a timer command's (0x5 to 0x9)
and the field T is N_TIMERS, here `n`, or above. -/
def illegalWord (n : Nat) (w : Word) : Prop :=
  0xB ≤ w.toNat / 2 ^ 28 ∨ (0x5 ≤ w.toNat / 2 ^ 28 ∧ w.toNat / 2 ^ 28 ≤ 0x9 ∧ n ≤ w.toNat / 2 ^ 24 % 16)

/-- In `s`, a host read at an offset from BASE returns `v` and leaves the block as it is (45_control R332). -/
def readGives (s : State) (off : Nat) (v : Word) : Prop :=
  ∀ ts, step { s with turns := .env (.hostRead (s.cfg.base + off) 32) :: ts } =
    .next { s with turns := ts, busReply := .value v }

/-- In `s`, a host write of `v` at an offset from BASE leaves the block as it is in `t` (45_control R332). -/
def writeGives (s : State) (off : Nat) (v : Word) (t : State) : Prop :=
  ∀ ts, step { s with turns := .env (.hostWrite (s.cfg.base + off) 32 v) :: ts } =
    .next { t with turns := ts, busReply := .written }

/-- The block comes back to READY after exactly `n` microsteps, with no environment step between them. -/
def readyAfter (n : Nat) (s : State) : Prop :=
  (∃ t, runSteps n s = .next t ∧ t.phase = .ready ∧ (s.phase = .pollDec ∨ s.phase = .feedLoop → t.rxq = [])) ∧
    ∀ m, m < n → ∃ t, runSteps m s = .next t ∧ t.phase ≠ .ready

/-- `n` is `m` with slot `t` at `x`, every other slot as it was, and as many slots. -/
def slotBecomes (m : TimerBank) (t : TimerId) (x : SoftTimer) (n : TimerBank) : Prop :=
  n.get t = x ∧ (∀ u, u ≠ t → n.get u = m.get u) ∧ n.others.length = m.others.length

/-- The elapsed time of a timer in mathematical integers: `(now - start) mod 2^CLOCK_BITS` (42_softtimer R268). -/
def elapsedMs (s : State) (t : TimerId) : Int :=
  ((s.now.toNat : Int) - ((timer s t).start.toNat : Int)) % (2 ^ s.cfg.clockBits : Int)

/-- Timer `t` is due: armed, and its elapsed time exceeds its delay (42_softtimer R260, R266). -/
def isDue (s : State) (t : TimerId) : Prop :=
  (timer s t).start ≠ 0 ∧ ((timer s t).delay.toNat : Int) < elapsedMs s t

/-- The start of timer `t` after it fires: from now if it repeats, stopped if it is one-shot (42_softtimer R261). -/
def startAfterFiring (s : State) (t : TimerId) : Word := if (timer s t).rep = true then s.now else 0

/-- The receiver is inside the group of bytes `g` (40_receiver R163). -/
def insideGroup (s : State) (g : Text) : Prop :=
  s.rxPhase = .receiving ∧ g.length = s.cursor ∧ holdsBytes s s.rxSel g

/-- The checksum byte a group of bytes `g` needs at its end: `((sum of the bytes before it) & CK_MASK) + CK_OFFSET`
(40_receiver R168). -/
def neededChecksum (cfg : Params) (g : Text) : Nat := (byteSum g.dropLast &&& cfg.ckMask) + cfg.ckOffset

/-- `g` ends in its checksum byte. -/
def endsInChecksum (cfg : Params) (g : Text) : Prop := (g.getLastD 0).toNat = neededChecksum cfg g

/-- `m` is `s.mem` with the bytes of the list `w` stored at their addresses: a read of any other address gives what it
gave. -/
def storesOnly (s : State) (w : List (Nat × Byte)) (m : Memory) : Prop :=
  (∀ c, c ∈ w → Memory.read m c.1 = some c.2) ∧
    ∀ a, (∀ c, c ∈ w → a ≠ c.1) → Memory.read m a = Memory.read s.mem a

/-- The decode buffer holds a pending group whose string is `str`, cut into tokens `tag`, `t1`, `t2`
(41_decoder R200, R201). -/
def pendingGroup (s : State) (str : Text) : Prop :=
  s.decPending = true ∧ str.length < s.cfg.bufCap ∧ holdsCstr s s.rxSel.other str

/-- `tag` is the wire tag of field `f` (30_encoding R136). -/
def isTagOf (cfg : Params) (tag : Text) (f : FieldId) : Prop := f ≠ .peak ∧ cfg.tagNames[f.index]? = some tag

/-- The block is about to poll timer `t`, in TPOLL, POLL or TPOLLALL (45_control R321). -/
def pollsTimer (s : State) (t : TimerId) : Prop :=
  s.phase = .exec (.tpoll t) ∨ s.phase = .pollTmr t ∨ s.phase = .tpa t

/-- The block is about to run DECODE_OP, in DECODE or POLL (45_control R321). -/
def runsDecode (s : State) : Prop := s.phase = .exec .decode ∨ s.phase = .pollDec

/-- The block is about to hand byte `b` to the receiver, in RXBYTE, FEED or POLL (45_control R321). -/
def takesByte (s : State) (b : Byte) : Prop :=
  s.phase = .exec (.rxbyte b) ∨ ((s.phase = .feedLoop ∨ s.phase = .pollFeed) ∧ s.rxq.head? = some b)

/-- The next turn is a RESET. -/
def resetNext (s : State) : Prop := ∃ ts, s.turns = .env .reset :: ts

/-- The next turn is the host's write of `v` to STATUS. -/
def statusWriteNext (s : State) (v : Word) : Prop := ∃ ts, s.turns = .env (.hostWrite (s.cfg.base + 0x00) 32 v) :: ts

/-- The next turn is the block's. -/
def blockNext (s : State) : Prop := s.turns = [] ∨ ∃ ts, s.turns = .block :: ts

/-- The values of 10_state R57 and R46; the frame buffers have none. -/
def hasResetValues (t : State) : Prop :=
  t.phase = .ready ∧ t.rxPhase = .idle ∧ t.sofSeen = false ∧ t.cursor = 0 ∧ t.rxSel = .a ∧ t.decPending = false ∧
  t.frameStart = 0 ∧ t.lastDur = 0 ∧ t.overrun = false ∧ t.chg = 0 ∧ t.unkCnt = 0 ∧ t.healthy = false ∧
  t.ledHealth = false ∧ t.ledPeak = false ∧ t.ledOffpeak = false ∧ t.data = 0 ∧ t.cmdErr = false ∧
  t.rxqLost = false ∧ t.rxq = [] ∧
  t.tmr.minp = ⟨0, 0, true, true⟩ ∧ t.tmr.maxp = ⟨0, 0, true, true⟩ ∧
  t.tmr.stat = ⟨t.cfg.blinkFastMs, 0, true, true⟩ ∧ t.tmr.blnk = ⟨t.cfg.blinkOnMs, 0, false, true⟩ ∧
  t.tmr.wdog = ⟨t.cfg.wdogMs, 0, true, true⟩ ∧
  5 + t.tmr.others.length = max 5 t.cfg.nTimers ∧ (∀ x, x ∈ t.tmr.others → x.start = 0) ∧
  ∀ f, t.record.value f =
    match f with
    | .adsc | .vtic | .date | .ngtf | .ltarf | .prm => .text []
    | .smaxsn | .smaxsn1 | .ccasn | .ccasn1 => .sample ⟨0, []⟩
    | .peak => .bool false
    | .easf01 | .easf02 | .irms1 | .urms1 | .pref | .sinsts | .ntarf => .u32 0

end Sys2Proof.Machine
end

