-- ==== Sys2Proof/Certificates/Slice0/Obligations.lean ====
section
/-! DEFINITION. The statements for the provers, from the numbered rules of the spec. A state carries its parameters, so a
statement about every state is one about every parameter set; `Params.wellFormed` holds the constraints of 00_scope R9. -/

section

open Sys2Proof Sys2Proof.Machine

/-! ### Encodings (30_encoding) -/

/-- Words of the table of 95_test_vectors 2.1 and of 30_encoding R125, each as the spec decodes it
with five timer slots. -/
def Obligations.SampleWordsDecode : Prop :=
  decode 5 0x00000000#32 = .ok .nop ∧ decode 5 0x0FFFFFFF#32 = .ok .nop ∧ decode 5 0x1F000000#32 = .ok .poll ∧
  decode 5 0x20FFFF00#32 = .ok .decode ∧ decode 5 0x30000000#32 = .ok .feed ∧
  decode 5 0x4000000A#32 = .ok (.rxbyte 0x0A#8) ∧ decode 5 0x4712340A#32 = .ok (.rxbyte 0x0A#8) ∧
  decode 5 0x50000003#32 = .ok (.tcfg .minp true true) ∧ decode 5 0x500000FF#32 = .ok (.tcfg .minp true true) ∧
  decode 5 0x53000002#32 = .ok (.tcfg .blnk false true) ∧ decode 5 0x54000001#32 = .ok (.tcfg .wdog true false) ∧
  decode 5 0x62000000#32 = .ok (.tstart .stat) ∧ decode 5 0x72000000#32 = .ok (.trestart .stat) ∧
  decode 5 0x84000000#32 = .ok (.tstop .wdog) ∧ decode 5 0x93000000#32 = .ok (.tpoll .blnk) ∧
  decode 5 0xAF000000#32 = .ok .tpollall ∧
  decode 5 0x55000003#32 = .error (.noSuchTimer 5 5) ∧ decode 5 0xB0000000#32 = .error (.reservedOpcode 0xB)

/-- Decoding the word a command assembles to gives the command back, for every number of timer slots; from its byte lanes
too, with the number `State.reset` has. -/
def Obligations.DecodeEncodeRoundTrip : Prop :=
  (∀ (n : Nat) (i : Instr), i.wellFormed n = true → decode n (encode i) = .ok i) ∧
  ∀ i : Instr, i.wellFormed Config.params.nTimers = true → decodeTableWord 32 (encode i).toNat = some i

/-- A word is the legal command `i` exactly when it agrees with `encode i` in the bits that command reads: no other bit
matters (30_encoding R124 item 4). -/
def Obligations.DecodeReadsOnlyUsedBits : Prop :=
  ∀ (n : Nat) (w : Word) (i : Instr), decode n w = .ok i ↔ i.wellFormed n = true ∧ w &&& usedBits i = encode i

/-- The decoder rejects exactly the words that 30_encoding R124 items 1 and 2 call illegal, for every N_TIMERS `n`. -/
def Obligations.IllegalWordsRejected : Prop :=
  ∀ (n : Nat) (w : Word),
    ((∃ e, decode n w = .error e) ↔ illegalWord n w) ∧ (legalWord n w = false ↔ illegalWord n w)

/-! ### Commands and their microsteps (45_control) -/

/-- A step runs the decoded command: after a CMD write of a legal word in READY, the block's next microstep is `exec` of
the command the word decodes to; when the block's turn comes (`block` is the next turn, or no turn is listed) a command in
progress runs, and a block in READY keeps its state (log 4). -/
def Obligations.StepRunsDecodedCommand : Prop :=
  (∀ (s : State) (w : Word) (i : Instr), decode s.cfg.nTimers w = .ok i →
    step (s.withFetchWord 32 w.toNat) = exec i { s with phase := acceptPhase i }) ∧
  (∀ (s : State) (w : Word) (i : Instr) (ts : List Turn), s.phase = .ready → decode s.cfg.nTimers w = .ok i →
    s.turns = .env (.hostWrite (s.cfg.base + 0x08) 32 w) :: .block :: ts →
    ∃ t, step s = .next t ∧
      t = { s with phase := acceptPhase i, turns := .block :: ts, busReply := .written } ∧
      step t = exec i { s with phase := acceptPhase i, turns := ts, busReply := .written }) ∧
  (∀ (s : State) (i : Instr), s.phase.command = some i →
    (∀ ts, s.turns = .block :: ts → step s = exec i { s with turns := ts }) ∧ (s.turns = [] → step s = exec i s)) ∧
  (∀ s : State, s.phase = .ready →
    (∀ ts, s.turns = .block :: ts → step s = .next { s with turns := ts }) ∧ (s.turns = [] → step s = .next s))

/-- The CMD write (45_control R320, R326, R327): while busy it only sets CMDERR; in READY an illegal word sets CMDERR and
is logged, and a legal word sets the phase of its opcode, with its operands latched. -/
def Obligations.CommandSubmission : Prop :=
  ∀ (s : State) (w : Word),
    (s.phase ≠ .ready → writeGives s 0x08 w { s with cmdErr := true }) ∧
    (s.phase = .ready → illegalWord s.cfg.nTimers w →
      writeGives s 0x08 w { s with cmdErr := true, events := s.events ++ [.logCmdIllegal w] }) ∧
    (s.phase = .ready → ¬illegalWord s.cfg.nTimers w → ∃ p, writeGives s 0x08 w { s with phase := p } ∧
      (w.toNat / 2 ^ 28 = 0x1 → p = .pollDec) ∧ (w.toNat / 2 ^ 28 = 0x3 → p = .feedLoop) ∧
      (w.toNat / 2 ^ 28 = 0xA → p = .tpa .minp) ∧
      (w.toNat / 2 ^ 28 ≠ 0x1 → w.toNat / 2 ^ 28 ≠ 0x3 → w.toNat / 2 ^ 28 ≠ 0xA →
        ∃ c, decode s.cfg.nTimers w = .ok c ∧ c.isSingleStep = true ∧ p = .exec c))

/-- NOP (45_control R322): it changes only the phase, every word with OP = 0 is NOP, and BUSY is 1 for one microstep. -/
def Obligations.NopOnlyReturnsToReady : Prop :=
  encode .nop = 0x00000000#32 ∧ (∀ (n : Nat) (w : Word), w.toNat / 2 ^ 28 = 0 → decode n w = .ok .nop) ∧
  (∀ s : State, exec .nop s = .next { s with phase := .ready }) ∧
  ∀ s : State, s.phase = .ready → s.turns = [.env (.hostWrite (s.cfg.base + 0x08) 32 0x00000000#32)] →
    ∃ t u, step s = .next t ∧ (statusWord t).getLsbD 12 = true ∧ step t = .next u ∧
      u = { s with turns := [], busReply := .written } ∧ (statusWord u).getLsbD 12 = false

/-- POLL in terms of DECODE and TPOLL (45_control R323): its first microstep does what DECODE does; in POLL_TMR(t), whatever
came between, what TPOLL of slot `t` does; only the phase that follows differs: the next slot's, or READY after the last.
The spec fixes that phase for the five slots 0 to 4; for another N_TIMERS it is the model's choice (log 12). -/
def Obligations.PollDecodesThenPollsTimers : Prop :=
  (∀ s : State, Invariant s → s.phase = .pollDec →
    ∃ t, exec .decode s = .next t ∧ exec .poll s = .next { t with phase := .pollFeed }) ∧
  ∀ (s : State) (t : TimerId), s.phase = .pollTmr t → ∃ u, exec (.tpoll t) s = .next u ∧
    (∀ v : TimerId, v.index = t.index + 1 → v.index < s.cfg.nTimers →
      exec .poll s = .next { u with phase := .pollTmr v }) ∧
    (s.cfg.nTimers ≤ t.index + 1 → exec .poll s = .next { u with phase := .ready })

/-- FEEDSTEP (40_receiver R173), in FEED and in POLL: with the queue empty the phase moves on and nothing else changes;
otherwise the oldest byte is taken as RXBYTE takes it, and the phase stays. -/
def Obligations.FeedStepTakesOneByte : Prop :=
  (∀ s : State, s.phase = .feedLoop → s.rxq = [] → exec .feed s = .next { s with phase := .ready }) ∧
  (∀ s : State, s.phase = .pollFeed → s.rxq = [] → exec .poll s = .next { s with phase := .pollTmr .minp }) ∧
  (∀ (s : State) (b : Byte) (q : List Byte), Invariant s → s.phase = .feedLoop → s.rxq = b :: q →
    ∃ t, exec (.rxbyte b) { s with rxq := q } = .next t ∧ exec .feed s = .next { t with phase := .feedLoop }) ∧
  ∀ (s : State) (b : Byte) (q : List Byte), Invariant s → s.phase = .pollFeed → s.rxq = b :: q →
    ∃ t, exec (.rxbyte b) { s with rxq := q } = .next t ∧ exec .poll s = .next { t with phase := .pollFeed }

/-- The microstep counts (45_control R324) with no environment step between them: one for a single-step command, N_TIMERS
for TPOLLALL, k + 1 for FEED and k + 2 + N_TIMERS for POLL, where k bytes are queued and are all taken; with N_TIMERS = 5 they
are the 5 and the k + 7 of the rule, and for another N_TIMERS they are the model's choice (log 12). BUSY is 1 until the last. -/
def Obligations.MicrostepCounts : Prop :=
  (∀ s : State, Invariant s → s.turns = [] →
    (∀ c, s.phase = .exec c → readyAfter 1 s) ∧
    (s.phase = .tpa .minp → readyAfter s.cfg.nTimers s) ∧
    (s.phase = .feedLoop → readyAfter (s.rxq.length + 1) s) ∧
    (s.phase = .pollDec → readyAfter (s.rxq.length + 2 + s.cfg.nTimers) s)) ∧
  ∀ s : State, (statusWord s).getLsbD 12 = true ↔ s.phase ≠ .ready

/-! ### Environment steps and the register window (45_control, 10_state, 20_memory) -/

/-- ARRIVE (45_control R330), in any phase: the byte is queued, or dropped with RXQLOST set when the queue is full. -/
def Obligations.ArriveQueuesOrDrops : Prop :=
  ∀ (s : State) (b : Byte) (ts : List Turn), s.turns = .env (.arrive b) :: ts →
    (s.rxq.length < s.cfg.rxqDepth → step s = .next { s with turns := ts, rxq := s.rxq ++ [b] }) ∧
    (s.cfg.rxqDepth ≤ s.rxq.length → step s = .next { s with turns := ts, rxqLost := true })

/-- TICK (45_control R331), in any phase: only the clock changes, modulo `2^CLOCK_BITS`, and two ticks are one of their
sum. -/
def Obligations.TickMovesOnlyTheClock : Prop :=
  ∀ s : State, s.cfg.wellFormed = true →
    (∀ d ts, 1 ≤ d → s.turns = .env (.tick d) :: ts → ∃ v, step s = .next { s with turns := ts, now := v } ∧
      v.toNat = (s.now.toNat + d) % 2 ^ s.cfg.clockBits) ∧
    ∀ a b ts, 1 ≤ a → 1 ≤ b → runSteps 2 { s with turns := .env (.tick a) :: .env (.tick b) :: ts } =
      runSteps 1 { s with turns := .env (.tick (a + b)) :: ts }

/-- Side effects of host accesses (20_memory R96): none for a read, which gives the same value again; a write to DATA sets
it, to STATUS clears each W1C bit written as 1, to CMD submits a command, and any other aligned write is ignored. -/
def Obligations.AccessSideEffects : Prop :=
  (∀ (s : State) (off : Nat), off % 4 = 0 → ∃ v, readGives s off v ∧
    ∀ r ts, r = Turn.env (.hostRead (s.cfg.base + off) 32) → runSteps 2 { s with turns := r :: r :: ts } =
      .next { s with turns := ts, busReply := .value v }) ∧
  (∀ s v, writeGives s 0x0C v { s with data := v }) ∧
  (∀ s v, writeGives s 0x00 v { s with
    overrun := s.overrun && !v.getLsbD 9, rxqLost := s.rxqLost && !v.getLsbD 10,
    cmdErr := s.cmdErr && !v.getLsbD 11 }) ∧
  (∀ s v, writeGives s 0x08 v (cmdWrite v s)) ∧
  ∀ s off v, off % 4 = 0 → off ≠ 0x00 → off ≠ 0x08 → off ≠ 0x0C → writeGives s off v s

/-- The register window (10_state R50): what a read at each offset returns, the reserved offsets, and the offsets whose
writes are ignored. -/
def Obligations.RegisterWindow : Prop :=
  ∀ s : State,
    readGives s 0x00 (statusWord s) ∧ readGives s 0x04 (BitVec.ofNat 32 s.chg.toNat) ∧ readGives s 0x08 0#32 ∧
    readGives s 0x0C s.data ∧ readGives s 0x10 s.now ∧ readGives s 0x14 s.frameStart ∧ readGives s 0x18 s.lastDur ∧
    readGives s 0x1C s.unkCnt ∧ readGives s 0x20 (BitVec.ofNat 32 s.rxq.length) ∧
    readGives s 0x24 (BitVec.ofNat 32 s.cursor) ∧
    (∀ t : TimerId, t.index < 5 → readGives s (0x30 + 0x10 * t.index) (timer s t).delay ∧
      readGives s (0x34 + 0x10 * t.index) (timer s t).start ∧
      ∃ m, readGives s (0x38 + 0x10 * t.index) m ∧ m.toNat = (timer s t).rep.toNat + 2 * (timer s t).cben.toNat) ∧
    (∀ off, off % 4 = 0 → (off = 0x28 ∨ off = 0x2C ∨ (∃ t : TimerId, off = 0x3C + 0x10 * t.index) ∨ 0x80 ≤ off) →
      readGives s off 0#32 ∧ ∀ v, writeGives s off v s) ∧
    (∀ off v, off = 0x04 ∨ off = 0x10 ∨ off = 0x14 ∨ off = 0x18 ∨ off = 0x1C ∨ off = 0x20 ∨ off = 0x24 ∨
      (∃ t : TimerId, off = 0x30 + 0x10 * t.index ∨ off = 0x34 + 0x10 * t.index ∨ off = 0x38 + 0x10 * t.index) →
      writeGives s off v s) ∧
    (Invariant s → ∀ v, (v = s.now ∨ v = s.frameStart ∨ v = s.lastDur ∨ ∃ t, v = (timer s t).delay ∨ v = (timer s t).start) →
      v.toNat < 2 ^ s.cfg.clockBits)

/-- STATUS (10_state R51): each bit of what a read returns, the reserved bits 0, the value at reset, and the write-one-to-
clear bits 9 to 11. -/
def Obligations.StatusRegister : Prop :=
  (∀ s : State, ∃ v, readGives s 0x00 v ∧
    (v.getLsbD 0 = true ↔ s.rxPhase = .receiving) ∧ v.getLsbD 1 = s.sofSeen ∧ v.getLsbD 2 = s.decPending ∧
    (v.getLsbD 3 = true ↔ s.rxSel = .b) ∧ v.getLsbD 4 = s.healthy ∧ v.getLsbD 5 = s.ledHealth ∧
    v.getLsbD 6 = s.ledPeak ∧ v.getLsbD 7 = s.ledOffpeak ∧ v.getLsbD 8 = s.record.peak ∧ v.getLsbD 9 = s.overrun ∧
    v.getLsbD 10 = s.rxqLost ∧ v.getLsbD 11 = s.cmdErr ∧ (v.getLsbD 12 = true ↔ s.phase ≠ .ready) ∧
    ∀ i, 13 ≤ i → v.getLsbD i = false) ∧
  readGives State.reset 0x00 0#32 ∧
  ∀ (s : State) (v : Word), writeGives s 0x00 v { s with
    overrun := if v.getLsbD 9 = true then false else s.overrun
    rxqLost := if v.getLsbD 10 = true then false else s.rxqLost
    cmdErr := if v.getLsbD 11 = true then false else s.cmdErr }

/-- An access that is not 32 bits wide, or whose offset from BASE is no multiple of 4, is refused (20_memory R95, 45_control
R332): the block keeps its state and carries on, and the host gets no value (log 6). An access below BASE is none of the
block's and leaves it as it is (log 16). -/
def Obligations.BadAccessRefused : Prop :=
  (∀ (s : State) (off width : Nat) (v : Word) (ts : List Turn), (width ≠ 32 ∨ off % 4 ≠ 0) →
    step { s with turns := .env (.hostRead (s.cfg.base + off) width) :: ts } =
      .next { s with turns := ts, busReply := .refused } ∧
    step { s with turns := .env (.hostWrite (s.cfg.base + off) width v) :: ts } =
      .next { s with turns := ts, busReply := .refused }) ∧
  ∀ (s : State) (addr width : Nat) (v : Word) (ts : List Turn), addr < s.cfg.base →
    step { s with turns := .env (.hostRead addr width) :: ts } = .next { s with turns := ts, busReply := .notMine } ∧
    step { s with turns := .env (.hostWrite addr width v) :: ts } = .next { s with turns := ts, busReply := .notMine }

/-- The reset values of 10_state R57, right after a RESET in any state and where a run starts; the clock and the events
emitted survive a RESET (70_reset R380, R383). The model's own fields `turns` and `cfg` survive it too (logs 1, 3, 21), and
`Config.now0` stands for NOW0 (log 10), and slots from 5 on are stopped (log 12): the model's choices. -/
def Obligations.ResetValues : Prop :=
  (∀ (s : State) (ts : List Turn), s.turns = .env .reset :: ts → ∃ t, step s = .next t ∧ t.now = s.now ∧
    t.events = s.events ∧ t.turns = ts ∧ t.cfg = s.cfg ∧ hasResetValues t) ∧
  hasResetValues State.reset ∧ State.reset.now = Config.now0 ∧ State.reset.events = []

/-! ### Invariants and rules of the whole machine -/

/-- The state after reset meets the invariant. -/
def Obligations.ResetMeetsInvariant : Prop := Invariant State.reset

/-- Every step, of the block or of its environment, keeps the invariant (10_state R56; for a bank of more than five slots, log 12). -/
def Obligations.StepKeepsInvariant : Prop := ∀ s t : State, Invariant s → step s = .next t → Invariant t

/-- From a state that meets the invariant every step completes: no access leaves a frame buffer (20_memory R91), no cell
without a value is read (R93), and nothing is fatal (60_exceptions R350). -/
def Obligations.NoStepFaultsOrRefuses : Prop := ∀ s : State, Invariant s → ∃ t, step s = .next t

/-- The properties of 10_state R56, after any number of steps of any interleaving from the reset state, for every
well-formed parameter set and every clock value a run can start with. The interleaving as a list of turns, the parameters
standing in the state and the start value as an argument are the model's choices (logs 3, 1, 10). -/
def Obligations.EveryRunFromResetIsSafe : Prop :=
  ∀ (cfg : Params) (now : Word) (ts : List Turn) (n : Nat), cfg.wellFormed = true → now.toNat < 2 ^ cfg.clockBits →
    ∃ t, runSteps n { State.initial cfg now with turns := ts } = .next t ∧ t.cfg = cfg ∧
      t.cursor ≤ cfg.bufCap - 2 ∧ (t.rxPhase = .idle → t.cursor = 0) ∧
      (t.decPending = true → holdsString t t.rxSel.other ∧ ∃ str, cstr t t.rxSel.other = .ok str) ∧
      t.rxq.length ≤ cfg.rxqDepth ∧ t.chg.toNat < 2 ^ 18

/-- Only TICK moves the clock (10_state R32): no microstep, no other environment step and no RESET does; and no step
changes a parameter (log 1). -/
def Obligations.ClockMovesOnlyByTick : Prop :=
  ∀ s t : State, step s = .next t →
    t.cfg = s.cfg ∧ (t.now ≠ s.now → ∃ d ts, s.turns = .env (.tick d) :: ts)

/-- The event stream is append-only (30_encoding R140): every step leaves the events already there, in their order, and no
environment step adds one but the CMD write of an illegal word. -/
def Obligations.EventsAreAppendOnly : Prop :=
  ∀ s t : State, step s = .next t → s.events <+: t.events ∧
    (∀ a ts, s.turns = .env a :: ts → t.events ≠ s.events →
      ∃ w, a = .hostWrite (s.cfg.base + 0x08) 32 w ∧ illegalWord s.cfg.nTimers w ∧
        t.events = s.events ++ [.logCmdIllegal w])

/-- The health class changes only on a measured frame or a watchdog expiry (44_health R307 item 3), or by RESET. -/
def Obligations.HealthChangesOnlyByClassification : Prop :=
  ∀ s t : State, s.phase.ok s.cfg.nTimers = true → step s = .next t → t.healthy ≠ s.healthy →
    resetNext s ∨ (blockNext s ∧ (takesByte s s.cfg.eof ∨ (pollsTimer s .wdog ∧ isDue s .wdog)))

/-- The record and the change mask (10_state R42, R43): only a decode of a pending group changes a slot or sets a bit, a bit
is newly set only if its slot was just overwritten with another value, and a bit is cleared only with the whole mask, by a
report timer that fires, or by RESET. -/
def Obligations.RecordAndMaskDiscipline : Prop :=
  ∀ s t : State, s.phase.ok s.cfg.nTimers = true → step s = .next t →
    (t.record ≠ s.record → resetNext s ∨ (blockNext s ∧ runsDecode s ∧ s.decPending = true)) ∧
    (∀ f : FieldId, t.chg.getLsbD f.index = true → s.chg.getLsbD f.index = false →
      blockNext s ∧ runsDecode s ∧ s.decPending = true ∧ t.record.value f ≠ s.record.value f) ∧
    (∀ f : FieldId, t.chg.getLsbD f.index = false → s.chg.getLsbD f.index = true → t.chg = 0 ∧
      (resetNext s ∨ (blockNext s ∧ ((pollsTimer s .minp ∧ isDue s .minp) ∨ (pollsTimer s .maxp ∧ isDue s .maxp)))))

/-- What is sticky stays (10_state R34, R41, R49): `sof_seen` until a RESET; OVERRUN, RXQLOST and CMDERR until a RESET or a
write of 1 to their STATUS bit. -/
def Obligations.StickyFlagsStay : Prop :=
  ∀ s t : State, step s = .next t →
    (s.sofSeen = true → t.sofSeen = false → resetNext s) ∧
    (s.overrun = true → t.overrun = false → resetNext s ∨ ∃ v, statusWriteNext s v ∧ v.getLsbD 9 = true) ∧
    (s.rxqLost = true → t.rxqLost = false → resetNext s ∨ ∃ v, statusWriteNext s v ∧ v.getLsbD 10 = true) ∧
    (s.cmdErr = true → t.cmdErr = false → resetNext s ∨ ∃ v, statusWriteNext s v ∧ v.getLsbD 11 = true)

/-- Ownership of the buffers (20_memory R92): no command writes a cell of the buffer that is the decode buffer when its
microstep begins, and no environment step but RESET writes a cell at all. -/
def Obligations.DecodeBufferNeverWritten : Prop :=
  (∀ (i : Instr) (s t : State), exec i s = .next t →
    ∀ j, j < s.cfg.bufCap → cell t s.rxSel.other j = cell s s.rxSel.other j) ∧
  ∀ (a : EnvAction) (s t : State) (ts : List Turn), s.turns = .env a :: ts → a ≠ .reset → step s = .next t →
    t.mem = s.mem ∧ t.rxSel = s.rxSel

/-- An energy index never falls (41_decoder R211, R223 item 2): whatever the step, but RESET. -/
def Obligations.EnergyIndicesNeverFall : Prop :=
  ∀ s t : State, step s = .next t → ¬resetNext s →
    s.record.easf01.toNat ≤ t.record.easf01.toNat ∧ s.record.easf02.toNat ≤ t.record.easf02.toNat

/-! ### Frame receiver (40_receiver) -/

/-- A byte other than EOF in IDLE (40_receiver R161): SOF opens a frame, SOG opens a group once a SOF has been seen, and
anything else has no effect. -/
def Obligations.IdleByte : Prop :=
  ∀ (s : State) (b : Byte), s.rxPhase = .idle → b ≠ s.cfg.eof → exec (.rxbyte b) s = .next
    (if b = s.cfg.sof then { s with phase := .ready, frameStart := s.now, sofSeen := true }
     else if b = s.cfg.sog ∧ s.sofSeen = true then { s with phase := .ready, rxPhase := .receiving, cursor := 0 }
     else { s with phase := .ready })

/-- EOF (40_receiver R162, 44_health R300, R301), in either phase: the duration since the frame start is recorded and
classified; the status timer is reprogrammed and restarted only when the class changes; the watchdog is restarted or
stopped. In IDLE nothing else changes, in a group the byte is stored too. -/
def Obligations.EndOfFrameMeasuresAndClassifies : Prop :=
  ∀ (s : State) (d : Word) (h : Bool), Invariant s →
    (d.toNat : Int) = ((s.now.toNat : Int) - (s.frameStart.toNat : Int)) % (2 ^ s.cfg.clockBits : Int) →
    (h = true ↔ d.toNat < s.cfg.healthThresholdMs) →
    ∃ t, exec (.rxbyte s.cfg.eof) s = .next t ∧ t.lastDur = d ∧ t.healthy = h ∧ t.frameStart = s.frameStart ∧
      t.tmr.minp = s.tmr.minp ∧ t.tmr.maxp = s.tmr.maxp ∧ t.tmr.blnk = s.tmr.blnk ∧
      t.tmr.wdog = { s.tmr.wdog with start := if h = true then s.now else 0 } ∧
      (h = s.healthy → t.tmr.stat = s.tmr.stat) ∧
      (h ≠ s.healthy → t.tmr.stat = { s.tmr.stat with
        delay := if h = true then s.cfg.blinkSlowMs else s.cfg.blinkFastMs, start := s.now }) ∧
      (s.rxPhase = .idle → t = { s with phase := .ready, lastDur := d, healthy := h, tmr := t.tmr }) ∧
      (s.rxPhase = .receiving → storesOnly s [(cellAddr s.cfg s.rxSel s.cursor, s.cfg.eof)] t.mem)

/-- STORE (40_receiver R163, R164): inside a group every byte but EOG is stored at the cursor, and nowhere else; the cursor
advances, or the group is aborted and logged when it would reach `BUF_CAP - 1`. -/
def Obligations.StoreByteOrAbort : Prop :=
  ∀ (s : State) (b : Byte), Invariant s → s.rxPhase = .receiving → b ≠ s.cfg.eog →
    ∃ t, exec (.rxbyte b) s = .next t ∧ storesOnly s [(cellAddr s.cfg s.rxSel s.cursor, b)] t.mem ∧
      t.rxSel = s.rxSel ∧ t.decPending = s.decPending ∧ t.overrun = s.overrun ∧
      (s.cursor + 1 < s.cfg.bufCap - 1 →
        t.cursor = s.cursor + 1 ∧ t.rxPhase = .receiving ∧ t.events = s.events) ∧
      (s.cursor + 1 = s.cfg.bufCap - 1 → t.cursor = 0 ∧ t.rxPhase = .idle ∧ t.events = s.events ++ [.logOverflow]) ∧
      (b ≠ s.cfg.eof → t = { s with phase := .ready, mem := t.mem, cursor := t.cursor, rxPhase := t.rxPhase,
                                    events := t.events })

/-- SHORT_GROUP (40_receiver R169): EOG after fewer than MIN_GROUP_LEN bytes drops the group and logs its length; only the
terminating 0x00 is written. -/
def Obligations.ShortGroupDropped : Prop :=
  ∀ (s : State), Invariant s → s.rxPhase = .receiving → s.cursor < s.cfg.minGroupLen →
    ∃ m, exec (.rxbyte s.cfg.eog) s = .next { s with
        phase := .ready, mem := m, cursor := 0, rxPhase := .idle,
        events := s.events ++ [.logShortGroup s.cursor] } ∧
      storesOnly s [(cellAddr s.cfg s.rxSel s.cursor, 0x00#8)] m

/-- CKFAIL (40_receiver R167): a group whose last byte is not the checksum of the others is dropped and logged with its
length, the value needed and the byte received; the buffers keep their roles and a pending group stays pending. That the
value needed is the unreduced integer of R168 is the model's choice (log 18). -/
def Obligations.ChecksumFailureDropsGroup : Prop :=
  ∀ (s : State) (g : Text), Invariant s → insideGroup s g → s.cfg.minGroupLen ≤ s.cursor → ¬endsInChecksum s.cfg g →
    ∃ m, exec (.rxbyte s.cfg.eog) s = .next { s with
        phase := .ready, mem := m, cursor := 0, rxPhase := .idle,
        events := s.events ++ [.logCksumFail s.cursor (neededChecksum s.cfg g) (g.getLastD 0)] } ∧
      storesOnly s [(cellAddr s.cfg s.rxSel s.cursor, 0x00#8)] m

/-- SUCCEED (40_receiver R166): a group that ends in its checksum is terminated before its last separator, becomes the
pending group, and the buffers swap roles; a group still pending is lost and OVERRUN records it. -/
def Obligations.ValidGroupSwapsBuffers : Prop :=
  ∀ (s : State) (g : Text), Invariant s → insideGroup s g → s.cfg.minGroupLen ≤ s.cursor → endsInChecksum s.cfg g →
    ∃ m, exec (.rxbyte s.cfg.eog) s = .next { s with
        phase := .ready, mem := m, cursor := 0, rxPhase := .idle, rxSel := s.rxSel.other, decPending := true,
        overrun := s.overrun || s.decPending } ∧
      storesOnly s [(cellAddr s.cfg s.rxSel s.cursor, 0x00#8), (cellAddr s.cfg s.rxSel (s.cursor - 2), 0x00#8)] m

/-- A whole group by RXBYTE, from IDLE with a SOF seen (40_receiver R174 item 3): SOG, bytes without EOG, EOG. It is
accepted exactly when it has between MIN_GROUP_LEN and `BUF_CAP - 2` bytes and ends in its checksum; the decode buffer then
holds it without its last two bytes. A longer one is aborted with LOG_OVERFLOW at its byte `BUF_CAP - 1`, and, as long as no
SOG among the bytes after it opens another group, is not accepted either. -/
def Obligations.GroupAcceptedExactlyWhenValid : Prop :=
  ∀ (s : State) (g : Text), Invariant s → s.rxPhase = .idle → s.sofSeen = true → s.cfg.eog ∉ g →
    s.cfg.sog ∉ g.drop (s.cfg.bufCap - 1) →
    ∃ t, rxbytes (s.cfg.sog :: (g ++ [s.cfg.eog])) s = .next t ∧ t.rxPhase = .idle ∧ t.cursor = 0 ∧
      (s.cfg.minGroupLen ≤ g.length ∧ g.length ≤ s.cfg.bufCap - 2 ∧ endsInChecksum s.cfg g →
        t.decPending = true ∧ t.rxSel = s.rxSel.other ∧ t.overrun = (s.overrun || s.decPending) ∧
        holdsBytes t s.rxSel (g.take (g.length - 2)) ∧ cell t s.rxSel (g.length - 2) = some 0x00#8) ∧
      (¬(s.cfg.minGroupLen ≤ g.length ∧ g.length ≤ s.cfg.bufCap - 2 ∧ endsInChecksum s.cfg g) →
        t.decPending = s.decPending ∧ t.rxSel = s.rxSel ∧ t.overrun = s.overrun) ∧
      (s.cfg.bufCap - 1 ≤ g.length → t.events = s.events ++ [.logOverflow])

/-- RXBYTE completes with every byte (40_receiver R171), and touches nothing but the receiver, the health class and the
timers: the input queue, the record, the mask and the interface registers stay. -/
def Obligations.RxbyteCompletes : Prop :=
  ∀ (s : State) (b : Byte), Invariant s → ∃ t, exec (.rxbyte b) s = .next t ∧ t.phase = .ready ∧ t.rxq = s.rxq ∧
    t.rxqLost = s.rxqLost ∧ t.record = s.record ∧ t.chg = s.chg ∧ t.unkCnt = s.unkCnt ∧ t.now = s.now ∧
    t.ledHealth = s.ledHealth ∧ t.ledPeak = s.ledPeak ∧ t.ledOffpeak = s.ledOffpeak ∧ t.data = s.data ∧
    t.cmdErr = s.cmdErr ∧ t.turns = s.turns ∧ t.busReply = s.busReply ∧
    (b ≠ s.cfg.eof → t.lastDur = s.lastDur ∧ t.healthy = s.healthy ∧ t.tmr = s.tmr) ∧
    (s.rxPhase = .receiving ∨ b ≠ s.cfg.sof → t.frameStart = s.frameStart ∧ t.sofSeen = s.sofSeen)

/-! ### Field decoder (41_decoder) -/

/-- DECODE completes (41_decoder R222): without a pending group it changes only the phase; with one it consumes it, and
touches nothing but the record, the mask, the unknown-tag counter, the tariff LEDs and the event stream. -/
def Obligations.DecodeCompletes : Prop :=
  (∀ s : State, s.decPending = false → exec .decode s = .next { s with phase := .ready }) ∧
  ∀ s : State, Invariant s → ∃ t, exec .decode s = .next t ∧ t.decPending = false ∧
    t = { s with phase := .ready, decPending := false, record := t.record, chg := t.chg, unkCnt := t.unkCnt,
                 ledPeak := t.ledPeak, ledOffpeak := t.ledOffpeak, events := t.events }

/-- UNKNOWN (41_decoder R202): a tag that is in no entry of TAG_NAMES is counted modulo 2^32 and reported, never stored. -/
def Obligations.UnknownTagCountedAndReported : Prop :=
  ∀ (s : State) (str : Text), s.cfg.wellFormed = true → pendingGroup s str →
    (tokenize s.cfg.sep str).tag ∉ s.cfg.tagNames →
    ∃ n, n.toNat = (s.unkCnt.toNat + 1) % 2 ^ 32 ∧ exec .decode s = .next { s with
      phase := .ready, decPending := false, unkCnt := n,
      events := s.events ++ [.logUnknownTag (tokenize s.cfg.sep str).tag] }

/-- REJECT (41_decoder R221): a value its validator rejects changes no slot and sets no bit; it is logged when LOG_REJECTS
is true. -/
def Obligations.RejectedValueOnlyLogged : Prop :=
  ∀ (s : State) (str : Text) (f : FieldId), s.cfg.wellFormed = true → pendingGroup s str →
    isTagOf s.cfg (tokenize s.cfg.sep str).tag f →
    validate s.cfg s.record f (tokenize s.cfg.sep str).t1 (tokenize s.cfg.sep str).t2 = none →
    exec .decode s = .next { s with phase := .ready, decPending := false, events :=
      if s.cfg.logRejects = true then s.events ++ [.logFieldReject f] else s.events }

/-- UPDATE (41_decoder R219): an accepted value equal to the stored one changes nothing; another one overwrites its slot,
and only that slot, and sets its change bit. (The tariff period, field 4, also goes through PEAKFLIP:
`TariffPeriodFlipsPeak`.) -/
def Obligations.AcceptedValueUpdatesSlot : Prop :=
  ∀ (s : State) (str : Text) (f : FieldId) (v : Value), s.cfg.wellFormed = true → pendingGroup s str →
    isTagOf s.cfg (tokenize s.cfg.sep str).tag f →
    validate s.cfg s.record f (tokenize s.cfg.sep str).t1 (tokenize s.cfg.sep str).t2 = some v →
    (v = s.record.value f → exec .decode s = .next { s with phase := .ready, decPending := false }) ∧
    (v ≠ s.record.value f → f ≠ .ltarf → ∃ r : Record, r.value f = v ∧
      (∀ g, g ≠ f → r.value g = s.record.value g) ∧
      exec .decode s = .next { s with
        phase := .ready, decPending := false, record := r, chg := s.chg ||| (1#18 <<< f.index) })

/-- PEAKFLIP (41_decoder R220): when the tariff period changes to `t1`, bit 4 is set; the peak indicator becomes "`t1` is
LIT_PEAK", and exactly when that flips it, bit 17 is set, both tariff LEDs are driven and the transition is logged. -/
def Obligations.TariffPeriodFlipsPeak : Prop :=
  ∀ (s : State) (str : Text) (p : Bool), s.cfg.wellFormed = true → pendingGroup s str →
    isTagOf s.cfg (tokenize s.cfg.sep str).tag .ltarf →
    ((tokenize s.cfg.sep str).t1 = s.cfg.litPeak ∨ (tokenize s.cfg.sep str).t1 = s.cfg.litOffpeak) →
    (tokenize s.cfg.sep str).t1 ≠ s.record.ltarf → (p = true ↔ (tokenize s.cfg.sep str).t1 = s.cfg.litPeak) →
    (p = s.record.peak → exec .decode s = .next { s with
      phase := .ready, decPending := false, record := { s.record with ltarf := (tokenize s.cfg.sep str).t1 },
      chg := s.chg ||| 0x00010#18 }) ∧
    (p ≠ s.record.peak → exec .decode s = .next { s with
      phase := .ready, decPending := false,
      record := { s.record with ltarf := (tokenize s.cfg.sep str).t1, peak := p },
      chg := s.chg ||| 0x20010#18, ledPeak := p, ledOffpeak := !p,
      events := s.events ++ [.gpio .peak p, .gpio .offpeak (!p), .logPeakTransition p] })

/-- TOKENIZE (41_decoder R201): the string is cut at every separator without collapsing; the tag is piece 0, the value
piece 1 or empty, the timestamp piece 2 if there is one, and further pieces are ignored. -/
def Obligations.TokensAreThePiecesBetweenSeparators : Prop :=
  ∀ (d : Byte) (str : Text), ∃ toks : List Text, List.intercalate [d] toks = str ∧
    toks.length = str.count d + 1 ∧ (∀ p, p ∈ toks → d ∉ p) ∧
    (tokenize d str).tag = toks.getD 0 [] ∧ (tokenize d str).t1 = toks.getD 1 [] ∧ (tokenize d str).t2 = toks[2]?

/-- A tag matches the entry of TAG_NAMES it equals byte for byte, whose place is the field id (30_encoding R137). -/
def Obligations.TagMatchesByteForByte : Prop :=
  ∀ (cfg : Params) (tag : Text), cfg.wellFormed = true →
    (∀ f, fieldOfTag cfg tag = some f ↔ isTagOf cfg tag f) ∧ (fieldOfTag cfg tag = none ↔ tag ∉ cfg.tagNames)

/-- PARSE_U32 (41_decoder R203): exactly the non-empty strings of decimal digits that write a number of at most 2^32 - 1
parse, and to that number. -/
def Obligations.ParseReadsDecimalNumbers : Prop :=
  ∀ (t : Text) (x : Word), parseU32 t = some x ↔ writesNumber t x.toNat

/-- TSHAPE (41_decoder R204): 13 bytes, a season letter in either case, twelve digits; with the default SEASON_SET the
first byte is one of E, H, e, h. -/
def Obligations.TimestampShape : Prop :=
  (∀ (cfg : Params) (t : Text), tShape cfg t = true ↔
    t.length = 13 ∧ (∃ c, c ∈ cfg.seasonSet ∧ upper (t.getD 0 0) = upper c) ∧
      ∀ i, 1 ≤ i → i ≤ 12 → 0x30 ≤ (t.getD i 0).toNat ∧ (t.getD i 0).toNat ≤ 0x39) ∧
  ∀ b : Byte, (∃ c, c ∈ Config.params.seasonSet ∧ upper b = upper c) ↔
    b = 0x45#8 ∨ b = 0x48#8 ∨ b = 0x65#8 ∨ b = 0x68#8

/-- The validators of the texts (41_decoder R206 to R210, R217): what they accept, always with the value itself. -/
def Obligations.TextFieldsValidated : Prop :=
  ∀ (cfg : Params) (r : Record) (t1 : Text) (t2 : Option Text) (v : Value),
    (validate cfg r .adsc t1 t2 = some v ↔ v = .text t1 ∧ t1.length = cfg.wAdsc ∧
      ∀ c, c ∈ t1 → 0x30 ≤ c.toNat ∧ c.toNat ≤ 0x39) ∧
    (validate cfg r .prm t1 t2 = some v ↔ v = .text t1 ∧ t1.length = cfg.wPrm ∧
      ∀ c, c ∈ t1 → 0x30 ≤ c.toNat ∧ c.toNat ≤ 0x39) ∧
    (validate cfg r .vtic t1 t2 = some v ↔ v = .text t1) ∧ (validate cfg r .ngtf t1 t2 = some v ↔ v = .text t1) ∧
    (validate cfg r .date t1 t2 = some v ↔ v = .text t1 ∧ tShape cfg t1 = true) ∧
    (validate cfg r .ltarf t1 t2 = some v ↔ v = .text t1 ∧ (t1 = cfg.litPeak ∨ t1 = cfg.litOffpeak))

/-- The validators of the numbers (41_decoder R211 to R216, R218) over the number `n` the value writes: monotonic indices,
nonzero current and tariff index, the voltage's floor and 25 % bound with its waiver at 0, the forbidden reference powers,
the apparent power against current times voltage, and the samples with their timestamp. -/
def Obligations.NumberFieldsValidated : Prop :=
  ∀ (cfg : Params) (r : Record) (t1 : Text) (t2 : Option Text) (v : Value),
    (validate cfg r .easf01 t1 t2 = some v ↔
      ∃ x : Word, writesNumber t1 x.toNat ∧ v = .u32 x ∧ r.easf01.toNat ≤ x.toNat) ∧
    (validate cfg r .easf02 t1 t2 = some v ↔
      ∃ x : Word, writesNumber t1 x.toNat ∧ v = .u32 x ∧ r.easf02.toNat ≤ x.toNat) ∧
    (validate cfg r .irms1 t1 t2 = some v ↔ ∃ x : Word, writesNumber t1 x.toNat ∧ v = .u32 x ∧ x.toNat ≠ 0) ∧
    (validate cfg r .ntarf t1 t2 = some v ↔ ∃ x : Word, writesNumber t1 x.toNat ∧ v = .u32 x ∧ 0 < x.toNat) ∧
    (validate cfg r .urms1 t1 t2 = some v ↔ ∃ x : Word, writesNumber t1 x.toNat ∧ v = .u32 x ∧
      cfg.vFloor < x.toNat ∧ (r.urms1.toNat = 0 ∨
        100 * |(x.toNat : Int) - (r.urms1.toNat : Int)| ≤ (cfg.vRelPct : Int) * (r.urms1.toNat : Int))) ∧
    (validate cfg r .pref t1 t2 = some v ↔ ∃ x : Word, writesNumber t1 x.toNat ∧ v = .u32 x ∧
      x ≠ cfg.prefForbidden.1 ∧ x ≠ cfg.prefForbidden.2) ∧
    (validate cfg r .sinsts t1 t2 = some v ↔ ∃ x : Word, writesNumber t1 x.toNat ∧ v = .u32 x ∧
      100 * |(x.toNat : Int) - (r.irms1.toNat : Int) * (r.urms1.toNat : Int)| ≤
        (cfg.pRelPct : Int) * ((r.irms1.toNat : Int) * (r.urms1.toNat : Int))) ∧
    ∀ f, (f = .smaxsn ∨ f = .smaxsn1 ∨ f = .ccasn ∨ f = .ccasn1) → (validate cfg r f t1 t2 = some v ↔
      ∃ (x : Word) (ts : Text), writesNumber t1 x.toNat ∧ t2 = some ts ∧ tShape cfg ts = true ∧ v = .sample ⟨x, ts⟩)

/-- Decoding the same group again sets no change bit and changes no slot (41_decoder R223 item 1): whatever the group, and
even with the mask cleared in between. -/
def Obligations.SameGroupTwiceChangesNothing : Prop :=
  ∀ (s t : State) (str : Text), s.cfg.wellFormed = true → pendingGroup s str → exec .decode s = .next t →
    ∃ u, exec .decode { t with decPending := true, chg := 0 } = .next u ∧ u.chg = 0 ∧ u.record = t.record

/-- A decode changes at most one of the slots 0 to 16 with its change bit, and slot 17 or bit 17 only together with slot 4
(41_decoder R223 item 3). -/
def Obligations.DecodeChangesAtMostOneWireField : Prop :=
  ∀ s t : State, exec .decode s = .next t →
    (∃ f : FieldId, f ≠ .peak ∧ ∀ g : FieldId, g ≠ f → g ≠ .peak →
      t.record.value g = s.record.value g ∧ t.chg.getLsbD g.index = s.chg.getLsbD g.index) ∧
    (t.record.peak ≠ s.record.peak ∨ t.chg.getLsbD 17 ≠ s.chg.getLsbD 17 → t.record.ltarf ≠ s.record.ltarf)

/-! ### Software timers (42_softtimer) -/

/-- TCFG (42_softtimer R262): delay, repeat and callback enable of its slot are written, the start is kept, and every other
slot and everything else but the phase stays. (A legal word names a slot the bank has: `Invariant.slots`.) -/
def Obligations.TcfgConfiguresOneSlot : Prop :=
  ∀ (s : State) (t : TimerId) (rep cben : Bool), s.cfg.wellFormed = true → s.tmr.has t → ∃ d m,
    exec (.tcfg t rep cben) s = .next { s with phase := .ready, tmr := m } ∧
    d.toNat = s.data.toNat % 2 ^ s.cfg.clockBits ∧
    slotBecomes s.tmr t { delay := d, start := (timer s t).start, rep := rep, cben := cben } m

/-- TSTART (42_softtimer R263): a zero delay is reported first, then an armed timer, each without any other effect; otherwise
the start becomes now. -/
def Obligations.TstartChecksThenArms : Prop :=
  ∀ (s : State) (t : TimerId),
    ((timer s t).delay = 0 → exec (.tstart t) s = .next { s with
      phase := .ready, events := s.events ++ [.logTimerMisuse t .zeroDelay] }) ∧
    ((timer s t).delay ≠ 0 → (timer s t).start ≠ 0 → exec (.tstart t) s = .next { s with
      phase := .ready, events := s.events ++ [.logTimerMisuse t .alreadyArmed] }) ∧
    ((timer s t).delay ≠ 0 → (timer s t).start = 0 → ∃ m,
      exec (.tstart t) s = .next { s with phase := .ready, tmr := m } ∧
      slotBecomes s.tmr t { timer s t with start := s.now } m)

/-- TRESTART and TSTOP (42_softtimer R264, R265): the start of the slot becomes now, or 0, whatever it was. -/
def Obligations.TrestartAndTstopSetTheStart : Prop :=
  ∀ (s : State) (t : TimerId), s.tmr.has t →
    (∃ m, exec (.trestart t) s = .next { s with phase := .ready, tmr := m } ∧
      slotBecomes s.tmr t { timer s t with start := s.now } m) ∧
    (∃ m, exec (.tstop t) s = .next { s with phase := .ready, tmr := m } ∧
      slotBecomes s.tmr t { timer s t with start := 0 } m)

/-- TPOLL (42_softtimer R261, R266): a timer that is not due is left alone; a due one whose callback is disabled is re-armed
from now or stopped, and nothing else happens. The elapsed time is that of mathematical integers modulo `2^CLOCK_BITS`. -/
def Obligations.TpollFiresOnlyWhenDue : Prop :=
  ∀ (s : State) (t : TimerId), s.cfg.wellFormed = true →
    (¬isDue s t → exec (.tpoll t) s = .next { s with phase := .ready }) ∧
    (isDue s t → (timer s t).cben = false → ∃ m, exec (.tpoll t) s = .next { s with phase := .ready, tmr := m } ∧
      slotBecomes s.tmr t { timer s t with start := startAfterFiring s t } m)

/-- TPOLLALL (42_softtimer R267): in TPA(t), whatever came between, its microstep is TPOLL of slot `t`, and the phase that
follows is the next slot's, or READY after the last; so with N_TIMERS = 5 and no environment step between them its five
microsteps are TPOLL of slots 0 to 4, in that order. The spec fixes the order for the five slots 0 to 4; for another N_TIMERS
it is the model's choice (log 12). -/
def Obligations.TpollallPollsEverySlotInOrder : Prop :=
  (∀ (s : State) (t : TimerId), s.phase = .tpa t → ∃ u, exec (.tpoll t) s = .next u ∧
    (∀ v : TimerId, v.index = t.index + 1 → v.index < s.cfg.nTimers →
      exec .tpollall s = .next { u with phase := .tpa v }) ∧
    (s.cfg.nTimers ≤ t.index + 1 → exec .tpollall s = .next { u with phase := .ready })) ∧
  ∀ s : State, s.cfg.nTimers = 5 → s.phase = .tpa .minp → s.turns = [] → ∃ a b c d e,
    exec (.tpoll .minp) s = .next a ∧ exec (.tpoll .maxp) a = .next b ∧ exec (.tpoll .stat) b = .next c ∧
    exec (.tpoll .blnk) c = .next d ∧ exec (.tpoll .wdog) d = .next e ∧ runSteps 5 s = .next e ∧ e.phase = .ready

/-- Elapsed time across a wrap (42_softtimer R268): `d` milliseconds after its start, with `d` below `2^CLOCK_BITS`, the
elapsed time of a timer is `d`, wherever the clock wrapped. -/
def Obligations.ElapsedTimeAcrossWrap : Prop :=
  ∀ (s : State) (t : TimerId) (d : Nat), s.cfg.wellFormed = true → (timer s t).start.toNat < 2 ^ s.cfg.clockBits →
    d < 2 ^ s.cfg.clockBits → s.now = wadd s.cfg (timer s t).start d →
    (elapsed s t).toNat = d ∧ elapsedMs s t = d

/-- Time zero (42_softtimer R271): a start, a restart or a repeating re-arm at clock value 0 leaves the timer stopped, with
no error reported. -/
def Obligations.TimeZeroLeavesTimerStopped : Prop :=
  ∀ (s : State) (t : TimerId), s.cfg.wellFormed = true → s.now = 0 →
    ((timer s t).delay ≠ 0 → (timer s t).start = 0 → exec (.tstart t) s = .next { s with phase := .ready }) ∧
    (∃ u, exec (.trestart t) s = .next u ∧ (timer u t).start = 0 ∧ u.events = s.events) ∧
    (isDue s t → (timer s t).rep = true → (timer s t).cben = false →
      ∃ u, exec (.tpoll t) s = .next u ∧ (timer u t).start = 0 ∧ u.events = s.events)

/-! ### Report scheduler and health monitor callbacks (43_report, 44_health) -/

/-- REPORT_MIN (43_report R290): when timer 0 fires, the changed fields are published in ascending field id with their
current values, and the whole mask is cleared. -/
def Obligations.ReportMinPublishesChangedFields : Prop :=
  ∀ s : State, s.cfg.wellFormed = true → isDue s .minp → (timer s .minp).cben = true →
    exec (.tpoll .minp) s = .next { s with
      phase := .ready, chg := 0, tmr := { s.tmr with minp := { s.tmr.minp with start := startAfterFiring s .minp } },
      events := s.events ++ (allFields.filter fun f => s.chg.getLsbD f.index).map
        fun f => .publish f (s.record.value f) } ∧
    allFields.map FieldId.index = List.range 18

/-- REPORT_MAX (43_report R291, R294 items 1 and 2): when timer 1 fires, all 18 fields are published in ascending field id and
the mask is cleared; a REPORT_MIN right after it publishes nothing. -/
def Obligations.ReportMaxPublishesEveryField : Prop :=
  ∀ s : State, s.cfg.wellFormed = true → isDue s .maxp → (timer s .maxp).cben = true → ∃ t evs,
    exec (.tpoll .maxp) s = .next t ∧
    t = { s with phase := .ready, chg := 0,
                 tmr := { s.tmr with maxp := { s.tmr.maxp with start := startAfterFiring s .maxp } },
                 events := s.events ++ evs } ∧
    evs.length = 18 ∧ (∀ f : FieldId, evs[f.index]? = some (.publish f (s.record.value f))) ∧
    ∃ u, exec (.tpoll .minp) t = .next u ∧ u.events = t.events ∧ u.chg = 0

/-- STATUS_BLINK and BLINK_OFF (44_health R302, R303): when timer 2 fires the health LED goes on and timer 3 is restarted
unconditionally; when timer 3 fires the LED goes off. Each emits its GPIO event whatever the level was. -/
def Obligations.BlinkTimersDriveTheHealthLed : Prop :=
  ∀ s : State, s.cfg.wellFormed = true →
    (isDue s .stat → (timer s .stat).cben = true → exec (.tpoll .stat) s = .next { s with
      phase := .ready, ledHealth := true, events := s.events ++ [.gpio .health true],
      tmr := { s.tmr with stat := { s.tmr.stat with start := startAfterFiring s .stat },
                          blnk := { s.tmr.blnk with start := s.now } } }) ∧
    (isDue s .blnk → (timer s .blnk).cben = true → exec (.tpoll .blnk) s = .next { s with
      phase := .ready, ledHealth := false, events := s.events ++ [.gpio .health false],
      tmr := { s.tmr with blnk := { s.tmr.blnk with start := startAfterFiring s .blnk } } })

/-- WATCHDOG (44_health R304): when timer 4 fires the class becomes degraded and the timer is stopped, which undoes its own
re-arm; if the block was healthy, the status timer is reprogrammed to the fast blink and restarted. No event is emitted. -/
def Obligations.WatchdogForcesDegraded : Prop :=
  ∀ s : State, s.cfg.wellFormed = true → isDue s .wdog → (timer s .wdog).cben = true →
    (s.healthy = true → exec (.tpoll .wdog) s = .next { s with
      phase := .ready, healthy := false,
      tmr := { s.tmr with stat := { s.tmr.stat with delay := s.cfg.blinkFastMs, start := s.now },
                          wdog := { s.tmr.wdog with start := 0 } } }) ∧
    (s.healthy = false → exec (.tpoll .wdog) s = .next { s with
      phase := .ready, tmr := { s.tmr with wdog := { s.tmr.wdog with start := 0 } } })

end
end

