-- ==== Sys2Proof/Laws/State.lean ====
section
/-! SUPPORT. One lemma per field per named update of the state, each true by rfl. -/

namespace Sys2Proof.Machine

/-! ### setPhase -/

@[simp] theorem setPhase_cfg (p : Phase) (s : State) : (setPhase p s).cfg = s.cfg := rfl

@[simp] theorem setPhase_phase (p : Phase) (s : State) : (setPhase p s).phase = p := rfl

@[simp] theorem setPhase_now (p : Phase) (s : State) : (setPhase p s).now = s.now := rfl

@[simp] theorem setPhase_rxPhase (p : Phase) (s : State) : (setPhase p s).rxPhase = s.rxPhase := rfl

@[simp] theorem setPhase_sofSeen (p : Phase) (s : State) : (setPhase p s).sofSeen = s.sofSeen := rfl

@[simp] theorem setPhase_cursor (p : Phase) (s : State) : (setPhase p s).cursor = s.cursor := rfl

@[simp] theorem setPhase_mem (p : Phase) (s : State) : (setPhase p s).mem = s.mem := rfl

@[simp] theorem setPhase_rxSel (p : Phase) (s : State) : (setPhase p s).rxSel = s.rxSel := rfl

@[simp] theorem setPhase_decPending (p : Phase) (s : State) : (setPhase p s).decPending = s.decPending := rfl

@[simp] theorem setPhase_frameStart (p : Phase) (s : State) : (setPhase p s).frameStart = s.frameStart := rfl

@[simp] theorem setPhase_lastDur (p : Phase) (s : State) : (setPhase p s).lastDur = s.lastDur := rfl

@[simp] theorem setPhase_overrun (p : Phase) (s : State) : (setPhase p s).overrun = s.overrun := rfl

@[simp] theorem setPhase_record (p : Phase) (s : State) : (setPhase p s).record = s.record := rfl

@[simp] theorem setPhase_chg (p : Phase) (s : State) : (setPhase p s).chg = s.chg := rfl

@[simp] theorem setPhase_unkCnt (p : Phase) (s : State) : (setPhase p s).unkCnt = s.unkCnt := rfl

@[simp] theorem setPhase_tmr (p : Phase) (s : State) : (setPhase p s).tmr = s.tmr := rfl

@[simp] theorem setPhase_healthy (p : Phase) (s : State) : (setPhase p s).healthy = s.healthy := rfl

@[simp] theorem setPhase_ledHealth (p : Phase) (s : State) : (setPhase p s).ledHealth = s.ledHealth := rfl

@[simp] theorem setPhase_ledPeak (p : Phase) (s : State) : (setPhase p s).ledPeak = s.ledPeak := rfl

@[simp] theorem setPhase_ledOffpeak (p : Phase) (s : State) : (setPhase p s).ledOffpeak = s.ledOffpeak := rfl

@[simp] theorem setPhase_data (p : Phase) (s : State) : (setPhase p s).data = s.data := rfl

@[simp] theorem setPhase_cmdErr (p : Phase) (s : State) : (setPhase p s).cmdErr = s.cmdErr := rfl

@[simp] theorem setPhase_rxq (p : Phase) (s : State) : (setPhase p s).rxq = s.rxq := rfl

@[simp] theorem setPhase_rxqLost (p : Phase) (s : State) : (setPhase p s).rxqLost = s.rxqLost := rfl

@[simp] theorem setPhase_events (p : Phase) (s : State) : (setPhase p s).events = s.events := rfl

@[simp] theorem setPhase_turns (p : Phase) (s : State) : (setPhase p s).turns = s.turns := rfl

@[simp] theorem setPhase_busReply (p : Phase) (s : State) : (setPhase p s).busReply = s.busReply := rfl

/-! ### emit -/

@[simp] theorem emit_cfg (e : Event) (s : State) : (emit e s).cfg = s.cfg := rfl

@[simp] theorem emit_phase (e : Event) (s : State) : (emit e s).phase = s.phase := rfl

@[simp] theorem emit_now (e : Event) (s : State) : (emit e s).now = s.now := rfl

@[simp] theorem emit_rxPhase (e : Event) (s : State) : (emit e s).rxPhase = s.rxPhase := rfl

@[simp] theorem emit_sofSeen (e : Event) (s : State) : (emit e s).sofSeen = s.sofSeen := rfl

@[simp] theorem emit_cursor (e : Event) (s : State) : (emit e s).cursor = s.cursor := rfl

@[simp] theorem emit_mem (e : Event) (s : State) : (emit e s).mem = s.mem := rfl

@[simp] theorem emit_rxSel (e : Event) (s : State) : (emit e s).rxSel = s.rxSel := rfl

@[simp] theorem emit_decPending (e : Event) (s : State) : (emit e s).decPending = s.decPending := rfl

@[simp] theorem emit_frameStart (e : Event) (s : State) : (emit e s).frameStart = s.frameStart := rfl

@[simp] theorem emit_lastDur (e : Event) (s : State) : (emit e s).lastDur = s.lastDur := rfl

@[simp] theorem emit_overrun (e : Event) (s : State) : (emit e s).overrun = s.overrun := rfl

@[simp] theorem emit_record (e : Event) (s : State) : (emit e s).record = s.record := rfl

@[simp] theorem emit_chg (e : Event) (s : State) : (emit e s).chg = s.chg := rfl

@[simp] theorem emit_unkCnt (e : Event) (s : State) : (emit e s).unkCnt = s.unkCnt := rfl

@[simp] theorem emit_tmr (e : Event) (s : State) : (emit e s).tmr = s.tmr := rfl

@[simp] theorem emit_healthy (e : Event) (s : State) : (emit e s).healthy = s.healthy := rfl

@[simp] theorem emit_ledHealth (e : Event) (s : State) : (emit e s).ledHealth = s.ledHealth := rfl

@[simp] theorem emit_ledPeak (e : Event) (s : State) : (emit e s).ledPeak = s.ledPeak := rfl

@[simp] theorem emit_ledOffpeak (e : Event) (s : State) : (emit e s).ledOffpeak = s.ledOffpeak := rfl

@[simp] theorem emit_data (e : Event) (s : State) : (emit e s).data = s.data := rfl

@[simp] theorem emit_cmdErr (e : Event) (s : State) : (emit e s).cmdErr = s.cmdErr := rfl

@[simp] theorem emit_rxq (e : Event) (s : State) : (emit e s).rxq = s.rxq := rfl

@[simp] theorem emit_rxqLost (e : Event) (s : State) : (emit e s).rxqLost = s.rxqLost := rfl

@[simp] theorem emit_events (e : Event) (s : State) : (emit e s).events = s.events ++ [e] := rfl

@[simp] theorem emit_turns (e : Event) (s : State) : (emit e s).turns = s.turns := rfl

@[simp] theorem emit_busReply (e : Event) (s : State) : (emit e s).busReply = s.busReply := rfl

/-! ### setTimer -/

@[simp] theorem setTimer_cfg (t : TimerId) (x : SoftTimer) (s : State) : (setTimer t x s).cfg = s.cfg := rfl

@[simp] theorem setTimer_phase (t : TimerId) (x : SoftTimer) (s : State) : (setTimer t x s).phase = s.phase := rfl

@[simp] theorem setTimer_now (t : TimerId) (x : SoftTimer) (s : State) : (setTimer t x s).now = s.now := rfl

@[simp] theorem setTimer_rxPhase (t : TimerId) (x : SoftTimer) (s : State) : (setTimer t x s).rxPhase = s.rxPhase := rfl

@[simp] theorem setTimer_sofSeen (t : TimerId) (x : SoftTimer) (s : State) : (setTimer t x s).sofSeen = s.sofSeen := rfl

@[simp] theorem setTimer_cursor (t : TimerId) (x : SoftTimer) (s : State) : (setTimer t x s).cursor = s.cursor := rfl

@[simp] theorem setTimer_mem (t : TimerId) (x : SoftTimer) (s : State) : (setTimer t x s).mem = s.mem := rfl

@[simp] theorem setTimer_rxSel (t : TimerId) (x : SoftTimer) (s : State) : (setTimer t x s).rxSel = s.rxSel := rfl

@[simp] theorem setTimer_decPending (t : TimerId) (x : SoftTimer) (s : State) : (setTimer t x s).decPending = s.decPending := rfl

@[simp] theorem setTimer_frameStart (t : TimerId) (x : SoftTimer) (s : State) : (setTimer t x s).frameStart = s.frameStart := rfl

@[simp] theorem setTimer_lastDur (t : TimerId) (x : SoftTimer) (s : State) : (setTimer t x s).lastDur = s.lastDur := rfl

@[simp] theorem setTimer_overrun (t : TimerId) (x : SoftTimer) (s : State) : (setTimer t x s).overrun = s.overrun := rfl

@[simp] theorem setTimer_record (t : TimerId) (x : SoftTimer) (s : State) : (setTimer t x s).record = s.record := rfl

@[simp] theorem setTimer_chg (t : TimerId) (x : SoftTimer) (s : State) : (setTimer t x s).chg = s.chg := rfl

@[simp] theorem setTimer_unkCnt (t : TimerId) (x : SoftTimer) (s : State) : (setTimer t x s).unkCnt = s.unkCnt := rfl

@[simp] theorem setTimer_tmr (t : TimerId) (x : SoftTimer) (s : State) : (setTimer t x s).tmr = s.tmr.set t x := rfl

@[simp] theorem setTimer_healthy (t : TimerId) (x : SoftTimer) (s : State) : (setTimer t x s).healthy = s.healthy := rfl

@[simp] theorem setTimer_ledHealth (t : TimerId) (x : SoftTimer) (s : State) : (setTimer t x s).ledHealth = s.ledHealth := rfl

@[simp] theorem setTimer_ledPeak (t : TimerId) (x : SoftTimer) (s : State) : (setTimer t x s).ledPeak = s.ledPeak := rfl

@[simp] theorem setTimer_ledOffpeak (t : TimerId) (x : SoftTimer) (s : State) : (setTimer t x s).ledOffpeak = s.ledOffpeak := rfl

@[simp] theorem setTimer_data (t : TimerId) (x : SoftTimer) (s : State) : (setTimer t x s).data = s.data := rfl

@[simp] theorem setTimer_cmdErr (t : TimerId) (x : SoftTimer) (s : State) : (setTimer t x s).cmdErr = s.cmdErr := rfl

@[simp] theorem setTimer_rxq (t : TimerId) (x : SoftTimer) (s : State) : (setTimer t x s).rxq = s.rxq := rfl

@[simp] theorem setTimer_rxqLost (t : TimerId) (x : SoftTimer) (s : State) : (setTimer t x s).rxqLost = s.rxqLost := rfl

@[simp] theorem setTimer_events (t : TimerId) (x : SoftTimer) (s : State) : (setTimer t x s).events = s.events := rfl

@[simp] theorem setTimer_turns (t : TimerId) (x : SoftTimer) (s : State) : (setTimer t x s).turns = s.turns := rfl

@[simp] theorem setTimer_busReply (t : TimerId) (x : SoftTimer) (s : State) : (setTimer t x s).busReply = s.busReply := rfl

/-! ### setStart -/

@[simp] theorem setStart_cfg (t : TimerId) (v : Word) (s : State) : (setStart t v s).cfg = s.cfg := rfl

@[simp] theorem setStart_phase (t : TimerId) (v : Word) (s : State) : (setStart t v s).phase = s.phase := rfl

@[simp] theorem setStart_now (t : TimerId) (v : Word) (s : State) : (setStart t v s).now = s.now := rfl

@[simp] theorem setStart_rxPhase (t : TimerId) (v : Word) (s : State) : (setStart t v s).rxPhase = s.rxPhase := rfl

@[simp] theorem setStart_sofSeen (t : TimerId) (v : Word) (s : State) : (setStart t v s).sofSeen = s.sofSeen := rfl

@[simp] theorem setStart_cursor (t : TimerId) (v : Word) (s : State) : (setStart t v s).cursor = s.cursor := rfl

@[simp] theorem setStart_mem (t : TimerId) (v : Word) (s : State) : (setStart t v s).mem = s.mem := rfl

@[simp] theorem setStart_rxSel (t : TimerId) (v : Word) (s : State) : (setStart t v s).rxSel = s.rxSel := rfl

@[simp] theorem setStart_decPending (t : TimerId) (v : Word) (s : State) : (setStart t v s).decPending = s.decPending := rfl

@[simp] theorem setStart_frameStart (t : TimerId) (v : Word) (s : State) : (setStart t v s).frameStart = s.frameStart := rfl

@[simp] theorem setStart_lastDur (t : TimerId) (v : Word) (s : State) : (setStart t v s).lastDur = s.lastDur := rfl

@[simp] theorem setStart_overrun (t : TimerId) (v : Word) (s : State) : (setStart t v s).overrun = s.overrun := rfl

@[simp] theorem setStart_record (t : TimerId) (v : Word) (s : State) : (setStart t v s).record = s.record := rfl

@[simp] theorem setStart_chg (t : TimerId) (v : Word) (s : State) : (setStart t v s).chg = s.chg := rfl

@[simp] theorem setStart_unkCnt (t : TimerId) (v : Word) (s : State) : (setStart t v s).unkCnt = s.unkCnt := rfl

@[simp] theorem setStart_tmr (t : TimerId) (v : Word) (s : State) : (setStart t v s).tmr = s.tmr.set t { timer s t with start := v } := rfl

@[simp] theorem setStart_healthy (t : TimerId) (v : Word) (s : State) : (setStart t v s).healthy = s.healthy := rfl

@[simp] theorem setStart_ledHealth (t : TimerId) (v : Word) (s : State) : (setStart t v s).ledHealth = s.ledHealth := rfl

@[simp] theorem setStart_ledPeak (t : TimerId) (v : Word) (s : State) : (setStart t v s).ledPeak = s.ledPeak := rfl

@[simp] theorem setStart_ledOffpeak (t : TimerId) (v : Word) (s : State) : (setStart t v s).ledOffpeak = s.ledOffpeak := rfl

@[simp] theorem setStart_data (t : TimerId) (v : Word) (s : State) : (setStart t v s).data = s.data := rfl

@[simp] theorem setStart_cmdErr (t : TimerId) (v : Word) (s : State) : (setStart t v s).cmdErr = s.cmdErr := rfl

@[simp] theorem setStart_rxq (t : TimerId) (v : Word) (s : State) : (setStart t v s).rxq = s.rxq := rfl

@[simp] theorem setStart_rxqLost (t : TimerId) (v : Word) (s : State) : (setStart t v s).rxqLost = s.rxqLost := rfl

@[simp] theorem setStart_events (t : TimerId) (v : Word) (s : State) : (setStart t v s).events = s.events := rfl

@[simp] theorem setStart_turns (t : TimerId) (v : Word) (s : State) : (setStart t v s).turns = s.turns := rfl

@[simp] theorem setStart_busReply (t : TimerId) (v : Word) (s : State) : (setStart t v s).busReply = s.busReply := rfl

/-! ### putCell -/

@[simp] theorem putCell_cfg (k : BufId) (i : Nat) (v : Byte) (s : State) : (putCell k i v s).cfg = s.cfg := rfl

@[simp] theorem putCell_phase (k : BufId) (i : Nat) (v : Byte) (s : State) : (putCell k i v s).phase = s.phase := rfl

@[simp] theorem putCell_now (k : BufId) (i : Nat) (v : Byte) (s : State) : (putCell k i v s).now = s.now := rfl

@[simp] theorem putCell_rxPhase (k : BufId) (i : Nat) (v : Byte) (s : State) : (putCell k i v s).rxPhase = s.rxPhase := rfl

@[simp] theorem putCell_sofSeen (k : BufId) (i : Nat) (v : Byte) (s : State) : (putCell k i v s).sofSeen = s.sofSeen := rfl

@[simp] theorem putCell_cursor (k : BufId) (i : Nat) (v : Byte) (s : State) : (putCell k i v s).cursor = s.cursor := rfl

@[simp] theorem putCell_mem (k : BufId) (i : Nat) (v : Byte) (s : State) : (putCell k i v s).mem = Memory.write s.mem (cellAddr s.cfg k i) v := rfl

@[simp] theorem putCell_rxSel (k : BufId) (i : Nat) (v : Byte) (s : State) : (putCell k i v s).rxSel = s.rxSel := rfl

@[simp] theorem putCell_decPending (k : BufId) (i : Nat) (v : Byte) (s : State) : (putCell k i v s).decPending = s.decPending := rfl

@[simp] theorem putCell_frameStart (k : BufId) (i : Nat) (v : Byte) (s : State) : (putCell k i v s).frameStart = s.frameStart := rfl

@[simp] theorem putCell_lastDur (k : BufId) (i : Nat) (v : Byte) (s : State) : (putCell k i v s).lastDur = s.lastDur := rfl

@[simp] theorem putCell_overrun (k : BufId) (i : Nat) (v : Byte) (s : State) : (putCell k i v s).overrun = s.overrun := rfl

@[simp] theorem putCell_record (k : BufId) (i : Nat) (v : Byte) (s : State) : (putCell k i v s).record = s.record := rfl

@[simp] theorem putCell_chg (k : BufId) (i : Nat) (v : Byte) (s : State) : (putCell k i v s).chg = s.chg := rfl

@[simp] theorem putCell_unkCnt (k : BufId) (i : Nat) (v : Byte) (s : State) : (putCell k i v s).unkCnt = s.unkCnt := rfl

@[simp] theorem putCell_tmr (k : BufId) (i : Nat) (v : Byte) (s : State) : (putCell k i v s).tmr = s.tmr := rfl

@[simp] theorem putCell_healthy (k : BufId) (i : Nat) (v : Byte) (s : State) : (putCell k i v s).healthy = s.healthy := rfl

@[simp] theorem putCell_ledHealth (k : BufId) (i : Nat) (v : Byte) (s : State) : (putCell k i v s).ledHealth = s.ledHealth := rfl

@[simp] theorem putCell_ledPeak (k : BufId) (i : Nat) (v : Byte) (s : State) : (putCell k i v s).ledPeak = s.ledPeak := rfl

@[simp] theorem putCell_ledOffpeak (k : BufId) (i : Nat) (v : Byte) (s : State) : (putCell k i v s).ledOffpeak = s.ledOffpeak := rfl

@[simp] theorem putCell_data (k : BufId) (i : Nat) (v : Byte) (s : State) : (putCell k i v s).data = s.data := rfl

@[simp] theorem putCell_cmdErr (k : BufId) (i : Nat) (v : Byte) (s : State) : (putCell k i v s).cmdErr = s.cmdErr := rfl

@[simp] theorem putCell_rxq (k : BufId) (i : Nat) (v : Byte) (s : State) : (putCell k i v s).rxq = s.rxq := rfl

@[simp] theorem putCell_rxqLost (k : BufId) (i : Nat) (v : Byte) (s : State) : (putCell k i v s).rxqLost = s.rxqLost := rfl

@[simp] theorem putCell_events (k : BufId) (i : Nat) (v : Byte) (s : State) : (putCell k i v s).events = s.events := rfl

@[simp] theorem putCell_turns (k : BufId) (i : Nat) (v : Byte) (s : State) : (putCell k i v s).turns = s.turns := rfl

@[simp] theorem putCell_busReply (k : BufId) (i : Nat) (v : Byte) (s : State) : (putCell k i v s).busReply = s.busReply := rfl

/-! ### markChanged -/

@[simp] theorem markChanged_cfg (f : FieldId) (s : State) : (markChanged f s).cfg = s.cfg := rfl

@[simp] theorem markChanged_phase (f : FieldId) (s : State) : (markChanged f s).phase = s.phase := rfl

@[simp] theorem markChanged_now (f : FieldId) (s : State) : (markChanged f s).now = s.now := rfl

@[simp] theorem markChanged_rxPhase (f : FieldId) (s : State) : (markChanged f s).rxPhase = s.rxPhase := rfl

@[simp] theorem markChanged_sofSeen (f : FieldId) (s : State) : (markChanged f s).sofSeen = s.sofSeen := rfl

@[simp] theorem markChanged_cursor (f : FieldId) (s : State) : (markChanged f s).cursor = s.cursor := rfl

@[simp] theorem markChanged_mem (f : FieldId) (s : State) : (markChanged f s).mem = s.mem := rfl

@[simp] theorem markChanged_rxSel (f : FieldId) (s : State) : (markChanged f s).rxSel = s.rxSel := rfl

@[simp] theorem markChanged_decPending (f : FieldId) (s : State) : (markChanged f s).decPending = s.decPending := rfl

@[simp] theorem markChanged_frameStart (f : FieldId) (s : State) : (markChanged f s).frameStart = s.frameStart := rfl

@[simp] theorem markChanged_lastDur (f : FieldId) (s : State) : (markChanged f s).lastDur = s.lastDur := rfl

@[simp] theorem markChanged_overrun (f : FieldId) (s : State) : (markChanged f s).overrun = s.overrun := rfl

@[simp] theorem markChanged_record (f : FieldId) (s : State) : (markChanged f s).record = s.record := rfl

@[simp] theorem markChanged_chg (f : FieldId) (s : State) : (markChanged f s).chg = s.chg ||| changeBit f := rfl

@[simp] theorem markChanged_unkCnt (f : FieldId) (s : State) : (markChanged f s).unkCnt = s.unkCnt := rfl

@[simp] theorem markChanged_tmr (f : FieldId) (s : State) : (markChanged f s).tmr = s.tmr := rfl

@[simp] theorem markChanged_healthy (f : FieldId) (s : State) : (markChanged f s).healthy = s.healthy := rfl

@[simp] theorem markChanged_ledHealth (f : FieldId) (s : State) : (markChanged f s).ledHealth = s.ledHealth := rfl

@[simp] theorem markChanged_ledPeak (f : FieldId) (s : State) : (markChanged f s).ledPeak = s.ledPeak := rfl

@[simp] theorem markChanged_ledOffpeak (f : FieldId) (s : State) : (markChanged f s).ledOffpeak = s.ledOffpeak := rfl

@[simp] theorem markChanged_data (f : FieldId) (s : State) : (markChanged f s).data = s.data := rfl

@[simp] theorem markChanged_cmdErr (f : FieldId) (s : State) : (markChanged f s).cmdErr = s.cmdErr := rfl

@[simp] theorem markChanged_rxq (f : FieldId) (s : State) : (markChanged f s).rxq = s.rxq := rfl

@[simp] theorem markChanged_rxqLost (f : FieldId) (s : State) : (markChanged f s).rxqLost = s.rxqLost := rfl

@[simp] theorem markChanged_events (f : FieldId) (s : State) : (markChanged f s).events = s.events := rfl

@[simp] theorem markChanged_turns (f : FieldId) (s : State) : (markChanged f s).turns = s.turns := rfl

@[simp] theorem markChanged_busReply (f : FieldId) (s : State) : (markChanged f s).busReply = s.busReply := rfl

/-! ### setLed -/

@[simp] theorem setLed_cfg (pin : Pin) (level : Bool) (s : State) : (setLed pin level s).cfg = s.cfg := by cases pin <;> rfl

@[simp] theorem setLed_phase (pin : Pin) (level : Bool) (s : State) : (setLed pin level s).phase = s.phase := by cases pin <;> rfl

@[simp] theorem setLed_now (pin : Pin) (level : Bool) (s : State) : (setLed pin level s).now = s.now := by cases pin <;> rfl

@[simp] theorem setLed_rxPhase (pin : Pin) (level : Bool) (s : State) : (setLed pin level s).rxPhase = s.rxPhase := by cases pin <;> rfl

@[simp] theorem setLed_sofSeen (pin : Pin) (level : Bool) (s : State) : (setLed pin level s).sofSeen = s.sofSeen := by cases pin <;> rfl

@[simp] theorem setLed_cursor (pin : Pin) (level : Bool) (s : State) : (setLed pin level s).cursor = s.cursor := by cases pin <;> rfl

@[simp] theorem setLed_mem (pin : Pin) (level : Bool) (s : State) : (setLed pin level s).mem = s.mem := by cases pin <;> rfl

@[simp] theorem setLed_rxSel (pin : Pin) (level : Bool) (s : State) : (setLed pin level s).rxSel = s.rxSel := by cases pin <;> rfl

@[simp] theorem setLed_decPending (pin : Pin) (level : Bool) (s : State) : (setLed pin level s).decPending = s.decPending := by cases pin <;> rfl

@[simp] theorem setLed_frameStart (pin : Pin) (level : Bool) (s : State) : (setLed pin level s).frameStart = s.frameStart := by cases pin <;> rfl

@[simp] theorem setLed_lastDur (pin : Pin) (level : Bool) (s : State) : (setLed pin level s).lastDur = s.lastDur := by cases pin <;> rfl

@[simp] theorem setLed_overrun (pin : Pin) (level : Bool) (s : State) : (setLed pin level s).overrun = s.overrun := by cases pin <;> rfl

@[simp] theorem setLed_record (pin : Pin) (level : Bool) (s : State) : (setLed pin level s).record = s.record := by cases pin <;> rfl

@[simp] theorem setLed_chg (pin : Pin) (level : Bool) (s : State) : (setLed pin level s).chg = s.chg := by cases pin <;> rfl

@[simp] theorem setLed_unkCnt (pin : Pin) (level : Bool) (s : State) : (setLed pin level s).unkCnt = s.unkCnt := by cases pin <;> rfl

@[simp] theorem setLed_tmr (pin : Pin) (level : Bool) (s : State) : (setLed pin level s).tmr = s.tmr := by cases pin <;> rfl

@[simp] theorem setLed_healthy (pin : Pin) (level : Bool) (s : State) : (setLed pin level s).healthy = s.healthy := by cases pin <;> rfl

@[simp] theorem setLed_ledHealth (pin : Pin) (level : Bool) (s : State) : (setLed pin level s).ledHealth = if pin = .health then level else s.ledHealth := by cases pin <;> rfl

@[simp] theorem setLed_ledPeak (pin : Pin) (level : Bool) (s : State) : (setLed pin level s).ledPeak = if pin = .peak then level else s.ledPeak := by cases pin <;> rfl

@[simp] theorem setLed_ledOffpeak (pin : Pin) (level : Bool) (s : State) : (setLed pin level s).ledOffpeak = if pin = .offpeak then level else s.ledOffpeak := by cases pin <;> rfl

@[simp] theorem setLed_data (pin : Pin) (level : Bool) (s : State) : (setLed pin level s).data = s.data := by cases pin <;> rfl

@[simp] theorem setLed_cmdErr (pin : Pin) (level : Bool) (s : State) : (setLed pin level s).cmdErr = s.cmdErr := by cases pin <;> rfl

@[simp] theorem setLed_rxq (pin : Pin) (level : Bool) (s : State) : (setLed pin level s).rxq = s.rxq := by cases pin <;> rfl

@[simp] theorem setLed_rxqLost (pin : Pin) (level : Bool) (s : State) : (setLed pin level s).rxqLost = s.rxqLost := by cases pin <;> rfl

@[simp] theorem setLed_events (pin : Pin) (level : Bool) (s : State) : (setLed pin level s).events = s.events ++ [.gpio pin level] := by cases pin <;> rfl

@[simp] theorem setLed_turns (pin : Pin) (level : Bool) (s : State) : (setLed pin level s).turns = s.turns := by cases pin <;> rfl

@[simp] theorem setLed_busReply (pin : Pin) (level : Bool) (s : State) : (setLed pin level s).busReply = s.busReply := by cases pin <;> rfl

/-! ### The timer bank -/

@[simp] theorem index_ofIndex (n : Nat) : (TimerId.ofIndex n).index = n := by
  match n with
  | 0 => rfl
  | 1 => rfl
  | 2 => rfl
  | 3 => rfl
  | 4 => rfl
  | k + 5 => exact Nat.add_comm 5 k

@[simp] theorem ofIndex_index (t : TimerId) : TimerId.ofIndex t.index = t := by
  cases t with
  | other k =>
    rw [TimerId.index, Nat.add_comm]
    rfl
  | _ => rfl

/-- A slot is its number. -/
theorem eq_ofIndex {t : TimerId} {n : Nat} (h : t.index = n) : t = TimerId.ofIndex n := by rw [← h, ofIndex_index]

@[simp] theorem set_others_length (m : TimerBank) (t : TimerId) (x : SoftTimer) :
    (m.set t x).others.length = m.others.length := by
  cases t <;> simp [TimerBank.set]

theorem get_set_same (m : TimerBank) {t : TimerId} (x : SoftTimer) (h : m.has t) : (m.set t x).get t = x := by
  cases t with
  | other k =>
    have hk : k < m.others.length := by simpa [TimerId.index] using h
    simp [TimerBank.get, TimerBank.set, hk]
  | _ => rfl

theorem get_set_other (m : TimerBank) {t u : TimerId} (x : SoftTimer) (h : u ≠ t) : (m.set t x).get u = m.get u := by
  cases t <;> cases u <;> first
    | rfl
    | exact absurd rfl h
    | (rename_i i j
       have hij : i ≠ j := fun e => h (e ▸ rfl)
       simp [TimerBank.get, TimerBank.set, List.getElem?_set_ne hij])

/-- A read of the bank after a write of one slot. -/
theorem get_set (m : TimerBank) (t u : TimerId) (x : SoftTimer) :
    (m.set t x).get u = if u = t ∧ m.has t then x else m.get u := by
  split_ifs with h
  · obtain ⟨rfl, hb⟩ := h
    exact get_set_same m x hb
  · by_cases hu : u = t
    · subst hu
      cases u with
      | other k =>
        have hk : m.others.length ≤ k := by simpa [TimerId.index] using h
        simp [TimerBank.get, TimerBank.set, hk]
      | minp => exact absurd ⟨rfl, Nat.lt_add_right _ (by decide)⟩ h
      | maxp => exact absurd ⟨rfl, Nat.lt_add_right _ (by decide)⟩ h
      | stat => exact absurd ⟨rfl, Nat.lt_add_right _ (by decide)⟩ h
      | blnk => exact absurd ⟨rfl, Nat.lt_add_right _ (by decide)⟩ h
      | wdog => exact absurd ⟨rfl, Nat.lt_add_right _ (by decide)⟩ h
    · exact get_set_other m x hu

@[simp] theorem set_get_self (m : TimerBank) (t : TimerId) : m.set t (m.get t) = m := by
  cases t with
  | other k =>
    have hl : m.others.set k (m.others.getD k SoftTimer.zero) = m.others := by
      by_cases hk : k < m.others.length
      · simp [List.getD_eq_getElem?_getD, hk]
      · exact List.set_eq_of_length_le (Nat.le_of_not_lt hk)
    exact congrArg (fun l => { m with others := l }) hl
  | _ => rfl

@[simp] theorem set_set (m : TimerBank) (t : TimerId) (x y : SoftTimer) : (m.set t x).set t y = m.set t y := by
  cases t <;> simp [TimerBank.set]

/-- A slot the bank does not have reads as a stopped timer. -/
theorem get_absent (m : TimerBank) {t : TimerId} (h : ¬m.has t) : m.get t = SoftTimer.zero := by
  cases t with
  | other k =>
    have hk : m.others.length ≤ k := by simpa [TimerId.index] using h
    simp [TimerBank.get, hk]
  | minp => exact absurd (Nat.lt_add_right _ (by decide)) h
  | maxp => exact absurd (Nat.lt_add_right _ (by decide)) h
  | stat => exact absurd (Nat.lt_add_right _ (by decide)) h
  | blnk => exact absurd (Nat.lt_add_right _ (by decide)) h
  | wdog => exact absurd (Nat.lt_add_right _ (by decide)) h

/-! ### The record -/

/-- The slots of a record after one is written with a value of its own type. -/
theorem value_put (r : Record) (f g : FieldId) (v : Value) (h : (r.put f v).value f = v) :
    (r.put f v).value g = if g = f then v else r.value g := by
  by_cases hg : g = f
  · subst hg
    simpa using h
  · rw [if_neg hg]
    cases f <;> cases v <;> first | rfl | (cases g <;> first | rfl | exact absurd rfl hg)

@[simp] theorem other_other (k : BufId) : k.other.other = k := by cases k <;> rfl

theorem other_ne (k : BufId) : k.other ≠ k := by cases k <;> decide

theorem eq_or_other (k l : BufId) : l = k ∨ l = k.other := by cases k <;> cases l <;> decide

end Sys2Proof.Machine
end

