-- ==== Sys2Proof/Laws/Memory.lean ====
section
/-! SUPPORT. The frame buffer space: a read after a write, the canonical form, and what the buffer accesses of the
receiver and the decoder can do. -/

namespace Sys2Proof.Machine

/-! ### The list of cells -/

theorem read_write_same (m : Memory) (a : Nat) (v : Byte) : Memory.read (Memory.write m a v) a = some v := by
  induction m with
  | nil => simp [Memory.write, Memory.read]
  | cons c m ih =>
    simp only [Memory.write]
    split_ifs with h1 h2
    · simp [Memory.read]
    · simp [Memory.read]
    · rw [Memory.read, if_neg (fun h => h2 h.symm), ih]

theorem read_write_other (m : Memory) {a b : Nat} (v : Byte) (h : b ≠ a) :
    Memory.read (Memory.write m a v) b = Memory.read m b := by
  induction m with
  | nil => simp [Memory.write, Memory.read, Ne.symm h]
  | cons c m ih =>
    simp only [Memory.write]
    split_ifs with h1 h2
    · rw [Memory.read, if_neg (Ne.symm h)]
    · subst h2
      simp [Memory.read, Ne.symm h]
    · simp only [Memory.read, ih]

theorem risingFrom_mono {lo hi : Nat} (h : lo ≤ hi) (m : Memory) (hm : Memory.risingFrom hi m = true) :
    Memory.risingFrom lo m = true := by
  cases m with
  | nil => rfl
  | cons c m =>
    simp only [Memory.risingFrom, Bool.and_eq_true, decide_eq_true_eq] at hm ⊢
    exact ⟨h.trans hm.1, hm.2⟩

theorem risingFrom_write (m : Memory) (lo a : Nat) (v : Byte) (hlo : lo ≤ a)
    (hm : Memory.risingFrom lo m = true) : Memory.risingFrom lo (Memory.write m a v) = true := by
  induction m generalizing lo with
  | nil => simpa [Memory.write, Memory.risingFrom] using hlo
  | cons c m ih =>
    simp only [Memory.risingFrom, Bool.and_eq_true, decide_eq_true_eq] at hm
    simp only [Memory.write]
    split_ifs with h1 h2
    · simp [Memory.risingFrom, hlo, hm.2, Nat.succ_le_of_lt h1]
    · subst h2
      simp [Memory.risingFrom, hm.1, hm.2]
    · simp only [Memory.risingFrom, Bool.and_eq_true, decide_eq_true_eq]
      exact ⟨hm.1, ih _ (by omega) hm.2⟩

/-- A write keeps the canonical form. -/
theorem wf_write (m : Memory) (a : Nat) (v : Byte) (hm : Memory.wf m = true) :
    Memory.wf (Memory.write m a v) = true := risingFrom_write m 0 a v (Nat.zero_le a) hm

theorem wf_empty : Memory.wf [] = true := rfl

theorem mem_write {m : Memory} {a : Nat} {v : Byte} {c : Host.Cell} (h : c ∈ Memory.write m a v) :
    c = (a, v) ∨ c ∈ m := by
  induction m with
  | nil => simpa [Memory.write] using h
  | cons d m ih =>
    simp only [Memory.write] at h
    split_ifs at h with h1 h2
    · simpa using h
    · rcases List.mem_cons.mp h with h | h
      · exact .inl h
      · exact .inr (List.mem_cons_of_mem _ h)
    · rcases List.mem_cons.mp h with h | h
      · exact .inr (h ▸ List.mem_cons_self ..)
      · exact (ih h).imp id (List.mem_cons_of_mem _)

/-! ### Cells of the two buffers -/

theorem cellAddr_lt (cfg : Params) (k : BufId) {i : Nat} (h : i < cfg.bufCap) : cellAddr cfg k i < 2 * cfg.bufCap := by
  cases k <;> simp only [cellAddr, BufId.index] <;> omega

theorem cellAddr_inj {cfg : Params} {k l : BufId} {i j : Nat} (hi : i < cfg.bufCap) (hj : j < cfg.bufCap)
    (h : cellAddr cfg k i = cellAddr cfg l j) : k = l ∧ i = j := by
  cases k <;> cases l <;> simp only [cellAddr, BufId.index] at h <;> refine ⟨?_, ?_⟩ <;> first | rfl | omega

theorem cell_putCell_same (s : State) (k : BufId) (i : Nat) (v : Byte) : cell (putCell k i v s) k i = some v :=
  read_write_same ..

theorem cell_putCell_other (s : State) {k l : BufId} {i j : Nat} (v : Byte) (hi : i < s.cfg.bufCap)
    (hj : j < s.cfg.bufCap) (h : l ≠ k ∨ j ≠ i) : cell (putCell k i v s) l j = cell s l j :=
  read_write_other _ _ fun he => by
    obtain ⟨h1, h2⟩ := cellAddr_inj hj hi he
    exact h.elim (· h1) (· h2)

/-- A cell that has a value keeps having one after any write. -/
theorem cell_putCell_isSome {s : State} {k l : BufId} {i j : Nat} (v : Byte) (h : (cell s l j).isSome = true) :
    (cell (putCell k i v s) l j).isSome = true := by
  by_cases ha : cellAddr s.cfg l j = cellAddr s.cfg k i
  · simp only [cell, putCell_mem, putCell_cfg, ha, read_write_same, Option.isSome_some]
  · simpa only [cell, putCell_mem, putCell_cfg, read_write_other _ _ ha] using h

/-- Everything MemRead can do. -/
theorem memRead_ok {s : State} {k : BufId} {i : Nat} {v : Byte} :
    memRead s k i = .ok v ↔ i < s.cfg.bufCap ∧ cell s k i = some v := by
  unfold memRead
  split_ifs with h
  · cases hc : cell s k i <;> simp [h]
  · simp [h]

/-- Everything MemWrite can do. -/
theorem memWrite_ok {s t : State} {k : BufId} {i : Nat} {v : Byte} :
    memWrite k i v s = .ok t ↔ i < s.cfg.bufCap ∧ t = putCell k i v s := by
  unfold memWrite
  split_ifs with h <;> simp [h, eq_comm]

theorem memWrite_of_lt {s : State} (k : BufId) {i : Nat} (v : Byte) (h : i < s.cfg.bufCap) :
    memWrite k i v s = .ok (putCell k i v s) := if_pos h

/-! ### Strings in a buffer -/

/-- Cells that all have a value hold some string of bytes. -/
theorem exists_bytes (s : State) (k : BufId) (n : Nat) (h : ∀ i, i < n → (cell s k i).isSome = true) :
    ∃ g : Text, g.length = n ∧ holdsBytes s k g := by
  refine ⟨(List.range n).map fun i => (cell s k i).getD 0, by simp, fun i hi => ?_⟩
  have hn : i < n := by simpa using hi
  obtain ⟨v, hv⟩ := Option.isSome_iff_exists.mp (h i hn)
  simp [hv]

/-- The sum over written cells (40_receiver R168). -/
theorem sumCells_of_bytes (s : State) (k : BufId) (g : Text) (i : Nat)
    (h : ∀ j (hj : j < g.length), cell s k (i + j) = some g[j]) (hc : i + g.length ≤ s.cfg.bufCap) :
    sumCells s k i g.length = .ok (byteSum g) := by
  induction g generalizing i with
  | nil => rfl
  | cons b g ih =>
    have h0 : memRead s k i = .ok b := memRead_ok.mpr
      ⟨by simp only [List.length_cons] at hc; omega, h 0 (Nat.succ_pos _)⟩
    have ht := ih (i + 1) (fun j hj => by
      have := h (j + 1) (by simpa using hj)
      simpa [Nat.add_assoc, Nat.add_comm 1 j] using this) (by simp only [List.length_cons] at hc; omega)
    simp only [List.length_cons, sumCells, h0, ht]
    simp [byteSum, Except.map]

/-- Reading a string up to its 0x00 (00_scope R13). -/
theorem cstrFrom_of_string (s : State) (k : BufId) (str : Text) (i fuel : Nat)
    (h : ∀ j (hj : j < str.length), cell s k (i + j) = some str[j]) (hz : 0x00#8 ∉ str)
    (he : cell s k (i + str.length) = some 0x00#8) (hc : i + str.length < s.cfg.bufCap) (hf : str.length < fuel) :
    cstrFrom s k i fuel = .ok str := by
  induction str generalizing i fuel with
  | nil =>
    obtain ⟨n, rfl⟩ : ∃ n, fuel = n + 1 := ⟨fuel - 1, by simp at hf; omega⟩
    have h0 : memRead s k i = .ok 0x00#8 := memRead_ok.mpr ⟨by simpa using hc, by simpa using he⟩
    simp [cstrFrom, h0]
  | cons b g ih =>
    obtain ⟨n, rfl⟩ : ∃ n, fuel = n + 1 := ⟨fuel - 1, by simp at hf; omega⟩
    simp only [List.length_cons] at hc hf he
    simp only [List.mem_cons, not_or] at hz
    have h0 : memRead s k i = .ok b := memRead_ok.mpr ⟨by omega, h 0 (Nat.succ_pos _)⟩
    have ht := ih (i + 1) n (fun j hj => by
      have := h (j + 1) (by simpa using hj)
      simpa [Nat.add_assoc, Nat.add_comm 1 j] using this) hz.2 (by rw [← he]; congr 1; omega) (by omega) (by omega)
    simp [cstrFrom, h0, Ne.symm hz.1, ht, Except.map]

/-- `cstr` of a buffer that holds a C string shorter than the buffer. -/
theorem cstr_of_holds {s : State} {k : BufId} {str : Text} (h : holdsCstr s k str)
    (hc : str.length < s.cfg.bufCap) : cstr s k = .ok str :=
  cstrFrom_of_string s k str 0 s.cfg.bufCap (fun j hj => by simpa using h.1 j hj) h.2.1 (by simpa using h.2.2)
    (by simpa using hc) hc

/-- A buffer with a 0x00 among its written cells holds a C string that ends at the first one. -/
theorem exists_cstr {s : State} {k : BufId} {n : Nat} (hz : cell s k n = some 0x00#8)
    (hw : ∀ i, i < n → (cell s k i).isSome = true) : ∃ str, str.length ≤ n ∧ holdsCstr s k str := by
  induction n using Nat.strong_induction_on with
  | _ n ih =>
    by_cases hex : ∃ m, m < n ∧ cell s k m = some 0x00#8
    · obtain ⟨m, hm, hm0⟩ := hex
      obtain ⟨str, h1, h2⟩ := ih m hm hm0 fun i hi => hw i (hi.trans hm)
      exact ⟨str, h1.trans hm.le, h2⟩
    · obtain ⟨g, hg, hb⟩ := exists_bytes s k n hw
      refine ⟨g, hg.le, hb, fun h0 => ?_, hg ▸ hz⟩
      obtain ⟨i, hi, he⟩ := List.mem_iff_getElem.mp h0
      exact hex ⟨i, hg ▸ hi, by rw [hb i hi, he]⟩

end Sys2Proof.Machine
end

