-- ==== Sys2Proof/Laws/Receiver.lean ====
section
/-! SUPPORT. What the health monitor's classification and the receiver's operations do. -/

namespace Sys2Proof.Machine

/-! ### Clock values -/

theorem clockOf_lt (cfg : Params) (n : Nat) : clockValue cfg (clockOf cfg n) := by
  unfold clockValue clockOf
  rw [BitVec.toNat_ofNat]
  exact lt_of_le_of_lt (Nat.mod_le _ _) (Nat.mod_lt _ (Nat.two_pow_pos _))

theorem wsub_lt (cfg : Params) (a b : Word) : clockValue cfg (wsub cfg a b) := clockOf_lt ..

theorem wadd_lt (cfg : Params) (a : Word) (d : Nat) : clockValue cfg (wadd cfg a d) := clockOf_lt ..

theorem clockOf_toNat {cfg : Params} (h : cfg.clockBits ≤ 32) (n : Nat) :
    (clockOf cfg n).toNat = n % 2 ^ cfg.clockBits := by
  unfold clockOf
  rw [BitVec.toNat_ofNat]
  exact Nat.mod_eq_of_lt (lt_of_lt_of_le (Nat.mod_lt _ (Nat.two_pow_pos _)) (Nat.pow_le_pow_right (by decide) h))

/-! ### Classification -/

/-- Everything CLASSIFY can do (44_health R301). -/
theorem classify_eq (h : Bool) (s : State) :
    classify h s =
      { s with
        healthy := h
        tmr := { s.tmr with
          stat := if h = s.healthy then s.tmr.stat
            else { s.tmr.stat with delay := if h then s.cfg.blinkSlowMs else s.cfg.blinkFastMs, start := s.now }
          wdog := { s.tmr.wdog with start := if h then s.now else 0 } } } := by
  obtain ⟨cfg, phase, now, rxPhase, sofSeen, cursor, mem, rxSel, decPending, frameStart, lastDur, overrun, record, chg,
    unkCnt, tmr, healthy, ledHealth, ledPeak, ledOffpeak, data, cmdErr, rxq, rxqLost, events, turns, busReply⟩ := s
  cases h <;> cases healthy <;> rfl

/-! ### The receiver -/

/-- Everything STORE can do from a cursor inside the buffer (40_receiver R163, R164). -/
theorem storeByte_eq {s : State} (b : Byte) (h : s.cursor < s.cfg.bufCap) :
    storeByte b s = .ok (advanceCursor (putCell s.rxSel s.cursor b s)) := by
  rw [storeByte, memWrite_of_lt _ _ h]
  rfl

/-- Everything COMPLETE can do with a group of bytes `g` (40_receiver R165 to R169). -/
theorem complete_eq {s : State} {g : Text} (hg : g.length = s.cursor) (hb : holdsBytes s s.rxSel g)
    (hc : s.cursor ≤ s.cfg.bufCap - 2) (hcap : 10 ≤ s.cfg.bufCap) (hmin : 3 ≤ s.cfg.minGroupLen) :
    complete s = .ok (toIdle (
      if s.cursor < s.cfg.minGroupLen then shortGroup s.cursor (putCell s.rxSel s.cursor 0x00#8 s)
      else if (g.getLastD 0).toNat = checksumOf s.cfg (byteSum g.dropLast) then
        swapRoles (putCell s.rxSel (s.cursor - 2) 0x00#8 (putCell s.rxSel s.cursor 0x00#8 s))
      else ckFail s.cursor (checksumOf s.cfg (byteSum g.dropLast)) (g.getLastD 0)
        (putCell s.rxSel s.cursor 0x00#8 s))) := by
  have hlt : s.cursor < s.cfg.bufCap := by omega
  rw [complete, memWrite_of_lt _ _ hlt]
  by_cases hshort : s.cursor < s.cfg.minGroupLen
  · rw [if_pos hshort]
    show Except.map toIdle (judgeGroup _ _) = _
    rw [judgeGroup, if_pos (by exact hshort)]
    rfl
  · rw [if_neg hshort]
    show Except.map toIdle (judgeGroup _ _) = _
    rw [judgeGroup, if_neg (by exact hshort)]
    have hcell : ∀ i (hi : i < g.length), cell (putCell s.rxSel s.cursor 0x00#8 s) s.rxSel i = some g[i] := fun i hi => by
      rw [cell_putCell_other s _ hlt (by omega) (.inr (by omega)), hb i hi]
    have hsum : sumCells (putCell s.rxSel s.cursor 0x00#8 s) (putCell s.rxSel s.cursor 0x00#8 s).rxSel 0
        (s.cursor - 1) = .ok (byteSum g.dropLast) := by
      have hl : g.dropLast.length = s.cursor - 1 := by simp [hg]
      rw [← hl]
      refine sumCells_of_bytes _ _ _ 0 (fun j hj => ?_) (by rw [hl, putCell_cfg]; omega)
      rw [Nat.zero_add, putCell_rxSel, hcell j (by omega)]
      simp
    have hlast : memRead (putCell s.rxSel s.cursor 0x00#8 s) (putCell s.rxSel s.cursor 0x00#8 s).rxSel
        (s.cursor - 1) = .ok (g.getLastD 0) := by
      refine memRead_ok.mpr ⟨by rw [putCell_cfg]; omega, ?_⟩
      rw [putCell_rxSel, hcell (s.cursor - 1) (by omega)]
      simp [List.getLastD_eq_getLast?, List.getLast?_eq_getElem?, hg,
        List.getElem?_eq_getElem (by omega : s.cursor - 1 < g.length)]
    rw [checkGroup, hsum, hlast]
    by_cases hck : (g.getLastD 0).toNat = checksumOf s.cfg (byteSum g.dropLast)
    · rw [if_pos hck]
      show Except.map toIdle (ite _ _ _) = _
      rw [if_pos (by exact hck), succeed, memWrite_of_lt _ _ (by rw [putCell_cfg]; omega), putCell_rxSel,
        show s.cursor - 1 - 1 = s.cursor - 2 by omega]
      rfl
    · rw [if_neg hck]
      show Except.map toIdle (ite _ _ _) = _
      rw [if_neg (by exact hck)]
      rfl

end Sys2Proof.Machine
end

