-- ==== Sys2Proof/Laws/Frames.lean ====
section
/-! SUPPORT. What the shared operations leave unchanged: the receiver's byte, the decoder's group, a timer's poll. Each
frame is a transitive relation, so an operation made of others gets it from theirs. -/

namespace Sys2Proof.Machine

/-- What a byte taken by the receiver leaves unchanged: everything but the receiver's own state, the health class and the
timers, and in the frame buffers every cell of buffer `k`, the decode buffer (20_memory R92). -/
structure RxKeeps (k : BufId) (s t : State) : Prop where
  cfg : t.cfg = s.cfg
  phase : t.phase = s.phase
  now : t.now = s.now
  record : t.record = s.record
  chg : t.chg = s.chg
  unkCnt : t.unkCnt = s.unkCnt
  ledHealth : t.ledHealth = s.ledHealth
  ledPeak : t.ledPeak = s.ledPeak
  ledOffpeak : t.ledOffpeak = s.ledOffpeak
  data : t.data = s.data
  cmdErr : t.cmdErr = s.cmdErr
  rxq : t.rxq = s.rxq
  rxqLost : t.rxqLost = s.rxqLost
  turns : t.turns = s.turns
  busReply : t.busReply = s.busReply
  events : s.events <+: t.events
  cells : ∀ i, i < s.cfg.bufCap → cell t k i = cell s k i

/-- What decoding a group leaves unchanged: everything but the pending flag, the record, the change mask, the unknown-tag
counter and the two tariff LEDs. -/
structure DecodeKeeps (s t : State) : Prop where
  cfg : t.cfg = s.cfg
  phase : t.phase = s.phase
  now : t.now = s.now
  rxPhase : t.rxPhase = s.rxPhase
  sofSeen : t.sofSeen = s.sofSeen
  cursor : t.cursor = s.cursor
  mem : t.mem = s.mem
  rxSel : t.rxSel = s.rxSel
  frameStart : t.frameStart = s.frameStart
  lastDur : t.lastDur = s.lastDur
  overrun : t.overrun = s.overrun
  tmr : t.tmr = s.tmr
  healthy : t.healthy = s.healthy
  ledHealth : t.ledHealth = s.ledHealth
  data : t.data = s.data
  cmdErr : t.cmdErr = s.cmdErr
  rxq : t.rxq = s.rxq
  rxqLost : t.rxqLost = s.rxqLost
  turns : t.turns = s.turns
  busReply : t.busReply = s.busReply
  events : s.events <+: t.events

/-- What polling a timer leaves unchanged: everything but the change mask, the timers, the health class and its LED. -/
structure PollKeeps (s t : State) : Prop where
  cfg : t.cfg = s.cfg
  phase : t.phase = s.phase
  now : t.now = s.now
  rxPhase : t.rxPhase = s.rxPhase
  sofSeen : t.sofSeen = s.sofSeen
  cursor : t.cursor = s.cursor
  mem : t.mem = s.mem
  rxSel : t.rxSel = s.rxSel
  decPending : t.decPending = s.decPending
  frameStart : t.frameStart = s.frameStart
  lastDur : t.lastDur = s.lastDur
  overrun : t.overrun = s.overrun
  record : t.record = s.record
  unkCnt : t.unkCnt = s.unkCnt
  ledPeak : t.ledPeak = s.ledPeak
  ledOffpeak : t.ledOffpeak = s.ledOffpeak
  data : t.data = s.data
  cmdErr : t.cmdErr = s.cmdErr
  rxq : t.rxq = s.rxq
  rxqLost : t.rxqLost = s.rxqLost
  turns : t.turns = s.turns
  busReply : t.busReply = s.busReply
  events : s.events <+: t.events

theorem RxKeeps.refl (k : BufId) (s : State) : RxKeeps k s s := ⟨rfl, rfl, rfl, rfl, rfl, rfl, rfl, rfl, rfl, rfl, rfl, rfl, rfl, rfl, rfl, List.prefix_refl _, fun _ _ => rfl⟩

theorem RxKeeps.trans {k : BufId} {s t u : State} (h : RxKeeps k s t) (g : RxKeeps k t u) : RxKeeps k s u :=
  ⟨g.cfg.trans h.cfg, g.phase.trans h.phase, g.now.trans h.now, g.record.trans h.record,
   g.chg.trans h.chg, g.unkCnt.trans h.unkCnt, g.ledHealth.trans h.ledHealth, g.ledPeak.trans h.ledPeak,
   g.ledOffpeak.trans h.ledOffpeak, g.data.trans h.data, g.cmdErr.trans h.cmdErr, g.rxq.trans h.rxq,
   g.rxqLost.trans h.rxqLost, g.turns.trans h.turns, g.busReply.trans h.busReply,
   h.events.trans g.events,
   fun i hi => (g.cells i (h.cfg ▸ hi)).trans (h.cells i hi)⟩

theorem DecodeKeeps.refl (s : State) : DecodeKeeps s s := ⟨rfl, rfl, rfl, rfl, rfl, rfl, rfl, rfl, rfl, rfl, rfl, rfl, rfl, rfl, rfl, rfl, rfl, rfl, rfl, rfl, List.prefix_refl _⟩

theorem DecodeKeeps.trans {s t u : State} (h : DecodeKeeps s t) (g : DecodeKeeps t u) : DecodeKeeps s u :=
  ⟨g.cfg.trans h.cfg, g.phase.trans h.phase, g.now.trans h.now, g.rxPhase.trans h.rxPhase,
   g.sofSeen.trans h.sofSeen, g.cursor.trans h.cursor, g.mem.trans h.mem, g.rxSel.trans h.rxSel,
   g.frameStart.trans h.frameStart, g.lastDur.trans h.lastDur, g.overrun.trans h.overrun, g.tmr.trans h.tmr,
   g.healthy.trans h.healthy, g.ledHealth.trans h.ledHealth, g.data.trans h.data, g.cmdErr.trans h.cmdErr,
   g.rxq.trans h.rxq, g.rxqLost.trans h.rxqLost, g.turns.trans h.turns, g.busReply.trans h.busReply,
   h.events.trans g.events⟩

theorem PollKeeps.refl (s : State) : PollKeeps s s := ⟨rfl, rfl, rfl, rfl, rfl, rfl, rfl, rfl, rfl, rfl, rfl, rfl, rfl, rfl, rfl, rfl, rfl, rfl, rfl, rfl, rfl, rfl, List.prefix_refl _⟩

theorem PollKeeps.trans {s t u : State} (h : PollKeeps s t) (g : PollKeeps t u) : PollKeeps s u :=
  ⟨g.cfg.trans h.cfg, g.phase.trans h.phase, g.now.trans h.now, g.rxPhase.trans h.rxPhase,
   g.sofSeen.trans h.sofSeen, g.cursor.trans h.cursor, g.mem.trans h.mem, g.rxSel.trans h.rxSel,
   g.decPending.trans h.decPending, g.frameStart.trans h.frameStart, g.lastDur.trans h.lastDur, g.overrun.trans h.overrun,
   g.record.trans h.record, g.unkCnt.trans h.unkCnt, g.ledPeak.trans h.ledPeak, g.ledOffpeak.trans h.ledOffpeak,
   g.data.trans h.data, g.cmdErr.trans h.cmdErr, g.rxq.trans h.rxq, g.rxqLost.trans h.rxqLost,
   g.turns.trans h.turns, g.busReply.trans h.busReply,
   h.events.trans g.events⟩

/-! ### The receiver -/

theorem frameEnd_keeps (k : BufId) (s : State) : RxKeeps k s (frameEnd s) := by
  rw [frameEnd, classify_eq]
  constructor <;> first | rfl | exact List.prefix_refl _ | (intros; rfl)

theorem idleByte_keeps (k : BufId) (b : Byte) (s : State) : RxKeeps k s (idleByte b s) := by
  unfold idleByte
  split_ifs <;> constructor <;> first | rfl | exact List.prefix_refl _ | (intros; rfl)

theorem putCell_keeps {s : State} {k l : BufId} {i : Nat} (v : Byte) (hi : i < s.cfg.bufCap) (hk : l ≠ k) :
    RxKeeps l s (putCell k i v s) := by
  constructor <;> first
    | rfl | exact List.prefix_refl _ | exact fun j hj => cell_putCell_other s v hi hj (.inl hk)

theorem advanceCursor_keeps (k : BufId) (s : State) : RxKeeps k s (advanceCursor s) := by
  unfold advanceCursor
  split_ifs <;> constructor <;> first
    | rfl | exact List.prefix_refl _ | exact List.prefix_append _ _ | (intros; rfl)

theorem shortGroup_keeps (k : BufId) (n : Nat) (s : State) : RxKeeps k s (shortGroup n s) := by
  constructor <;> first | rfl | exact List.prefix_append _ _ | (intros; rfl)

theorem ckFail_keeps (k : BufId) (n e : Nat) (r : Byte) (s : State) : RxKeeps k s (ckFail n e r s) := by
  constructor <;> first | rfl | exact List.prefix_append _ _ | (intros; rfl)

theorem swapRoles_keeps (k : BufId) (s : State) : RxKeeps k s (swapRoles s) := by
  constructor <;> first | rfl | exact List.prefix_refl _ | (intros; rfl)

theorem toIdle_keeps (k : BufId) (s : State) : RxKeeps k s (toIdle s) := by
  constructor <;> first | rfl | exact List.prefix_refl _ | (intros; rfl)

/-- An `Except.map` that answers. -/
theorem map_ok {α β : Type} {f : α → β} {x : Except Fault α} {b : β} (h : x.map f = .ok b) :
    ∃ a, x = .ok a ∧ b = f a := by
  cases x with
  | error e => cases h
  | ok a => exact ⟨a, rfl, (Except.ok.inj h).symm⟩

theorem storeByte_keeps {b : Byte} {s t : State} (h : storeByte b s = .ok t) : RxKeeps s.rxSel.other s t := by
  obtain ⟨u, hu, rfl⟩ := map_ok h
  obtain ⟨hi, rfl⟩ := memWrite_ok.mp hu
  exact (putCell_keeps b hi (other_ne _)).trans (advanceCursor_keeps _ _)

theorem checkGroup_keeps {n : Nat} {s t : State} (h : checkGroup n s = .ok t) : RxKeeps s.rxSel.other s t := by
  unfold checkGroup at h
  split at h
  · split_ifs at h
    · obtain ⟨u, hu, rfl⟩ := map_ok h
      obtain ⟨hi, rfl⟩ := memWrite_ok.mp hu
      exact (putCell_keeps _ hi (other_ne _)).trans (swapRoles_keeps _ _)
    · cases h
      exact ckFail_keeps ..
  · cases h
  · cases h

theorem complete_keeps {s t : State} (h : complete s = .ok t) : RxKeeps s.rxSel.other s t := by
  unfold complete at h
  split at h
  case h_1 s1 hs1 =>
    obtain ⟨hi, rfl⟩ := memWrite_ok.mp hs1
    obtain ⟨u, hu, rfl⟩ := map_ok h
    refine (putCell_keeps 0x00#8 hi (other_ne _)).trans (RxKeeps.trans (t := u) ?_ (toIdle_keeps _ _))
    unfold judgeGroup at hu
    split_ifs at hu
    · cases hu
      exact shortGroup_keeps ..
    · exact checkGroup_keeps hu
  case h_2 => cases h

theorem frameEnd_rxSel (s : State) : (frameEnd s).rxSel = s.rxSel := by rw [frameEnd, classify_eq]

theorem phaseByte_keeps {b : Byte} {s t : State} (h : phaseByte b s = .ok t) : RxKeeps s.rxSel.other s t := by
  unfold phaseByte at h
  split at h
  · cases h
    exact idleByte_keeps ..
  · split_ifs at h
    · exact complete_keeps h
    · exact storeByte_keeps h

/-- What RXSTEP leaves unchanged (40_receiver R160, 20_memory R92). -/
theorem rxStep_keeps {b : Byte} {s t : State} (h : rxStep b s = .ok t) : RxKeeps s.rxSel.other s t := by
  unfold rxStep at h
  split_ifs at h
  · exact (frameEnd_keeps _ s).trans (frameEnd_rxSel s ▸ phaseByte_keeps h)
  · exact phaseByte_keeps h

/-! ### The decoder -/

theorem unknownTag_keeps (tag : Text) (s : State) : DecodeKeeps s (unknownTag tag s) := by
  constructor <;> first | rfl | exact List.prefix_append _ _

theorem rejectField_keeps (f : FieldId) (s : State) : DecodeKeeps s (rejectField f s) := by
  unfold rejectField
  split_ifs <;> constructor <;> first | rfl | exact List.prefix_append _ _

theorem emit_keeps (e : Event) (s : State) : DecodeKeeps s (emit e s) := by
  constructor <;> first | rfl | exact List.prefix_append _ _

theorem setPeakLed_keeps (l : Bool) (s : State) : DecodeKeeps s (setLed .peak l s) := by
  constructor <;> first | rfl | exact List.prefix_append _ _

theorem setOffpeakLed_keeps (l : Bool) (s : State) : DecodeKeeps s (setLed .offpeak l s) := by
  constructor <;> first | rfl | exact List.prefix_append _ _

theorem markRecord_keeps (f : FieldId) (r : Record) (s : State) :
    DecodeKeeps s (markChanged f { s with record := r }) := by
  constructor <;> rfl

theorem setPeak_keeps (p : Bool) (s : State) : DecodeKeeps s (setPeak p s) :=
  (((markRecord_keeps .peak { s.record with peak := p } s).trans (setPeakLed_keeps p _)).trans
    (setOffpeakLed_keeps (!p) _)).trans (emit_keeps _ _)

theorem updateSlot_keeps (f : FieldId) (v : Value) (s : State) : DecodeKeeps s (updateSlot f v s) := by
  have h1 : DecodeKeeps s (markChanged f { s with record := s.record.put f v }) := markRecord_keeps ..
  unfold updateSlot
  split_ifs
  · unfold peakFlip
    dsimp only
    split_ifs
    · exact h1.trans (setPeak_keeps _ _)
    · exact h1
  · exact h1
  · exact .refl s

/-- What decoding a group's string leaves unchanged (41_decoder R200). -/
theorem decodeText_keeps (str : Text) (s : State) : DecodeKeeps s (decodeText str s) := by
  unfold decodeText
  split
  · unfold decodeField
    split
    · exact updateSlot_keeps ..
    · exact rejectField_keeps ..
  · exact unknownTag_keeps ..

/-- What DECODE_OP leaves unchanged (41_decoder R200). -/
theorem decodeOp_keeps {s t : State} (h : decodeOp s = .ok t) : DecodeKeeps s t := by
  unfold decodeOp at h
  split_ifs at h
  · obtain ⟨str, -, rfl⟩ := map_ok h
    have h1 : DecodeKeeps s { s with decPending := false } := by constructor <;> rfl
    exact h1.trans (decodeText_keeps str _)
  · cases h
    exact .refl s

/-! ### The timers -/

theorem classify_keeps (h : Bool) (s : State) : PollKeeps s (classify h s) := by
  rw [classify_eq]
  constructor <;> rfl

theorem callback_keeps (t : TimerId) (s : State) : PollKeeps s (callback t s) := by
  cases t
  · constructor <;> first | rfl | exact List.prefix_append _ _
  · constructor <;> first | rfl | exact List.prefix_append _ _
  · constructor <;> first | rfl | exact List.prefix_append _ _
  · constructor <;> first | rfl | exact List.prefix_append _ _
  · exact classify_keeps false s
  · exact .refl s

theorem rearm_keeps (t : TimerId) (s : State) : PollKeeps s (rearm t s) := by
  unfold rearm
  split_ifs <;> constructor <;> rfl

/-- What T_POLL leaves unchanged (42_softtimer R261). -/
theorem tPoll_keeps (t : TimerId) (s : State) : PollKeeps s (tPoll t s) := by
  unfold tPoll
  split_ifs
  · unfold fire
    split_ifs
    · exact (rearm_keeps t s).trans (callback_keeps t _)
    · exact rearm_keeps t s
  · exact .refl s

end Sys2Proof.Machine
end

