-- ==== Sys2Proof/Laws/Decoder.lean ====
section
/-! SUPPORT. What the decoder's operations do: DECODE_OP on a pending group, a slot's write, the two ways UPDATE can end,
the number a string of digits writes, the texts a validator can give. -/

namespace Sys2Proof.Machine

/-! ### Slots -/

/-- A slot written with a value its validator gave holds that value. -/
theorem value_put_of_validate {cfg : Params} {r q : Record} {f : FieldId} {t1 : Text} {t2 : Option Text} {v : Value}
    (h : validate cfg r f t1 t2 = some v) : (q.put f v).value f = v := by
  cases f <;> simp only [validate, validateIndex, validateNonzero, validateVoltage, validatePref, validatePower,
    validateSample] at h <;> (repeat' split at h) <;> first | (cases h; rfl) | cases h

/-- A write of a slot writes that slot alone. -/
theorem value_put_other (r : Record) {f g : FieldId} (v : Value) (hg : g ≠ f) : (r.put f v).value g = r.value g := by
  cases f <;> cases v <;> first | rfl | (cases g <;> first | rfl | exact absurd rfl hg)

/-- The value a validator gives depends on the tokens alone. -/
theorem validate_unique {cfg : Params} {r q : Record} {f : FieldId} {t1 : Text} {t2 : Option Text} {v w : Value}
    (h : validate cfg r f t1 t2 = some v) (h' : validate cfg q f t1 t2 = some w) : w = v := by
  cases f <;> simp only [validate, validateIndex, validateNonzero, validateVoltage, validatePref, validatePower,
    validateSample] at h h' <;> (repeat' split at h) <;> (repeat' split at h') <;> simp_all

/-- Bit `g` of the mask with bit `f` set. -/
theorem changeBit_getLsbD (f g : FieldId) : (changeBit f).getLsbD g.index = decide (f = g) := by
  cases f <;> cases g <;> decide

/-! ### UPDATE -/

/-- Everything PEAKFLIP can do (41_decoder R220). -/
theorem peakFlip_eq {v : Value} {s : State} {p : Bool} (h : p = true ↔ v = .text s.cfg.litPeak) :
    peakFlip v s = if p ≠ s.record.peak then setPeak p s else s := by
  have hp : decide (v = .text s.cfg.litPeak) = p := by cases p <;> simpa using h
  rw [peakFlip, hp]

/-- What UPDATE can do to the record and the mask (41_decoder R219, R220): nothing, the field's slot and bit, or for the
tariff period the peak indicator and bit 17 as well. -/
theorem updateSlot_cases (f : FieldId) (v : Value) (s : State) :
    ((updateSlot f v s).chg = s.chg ∧ (updateSlot f v s).record = s.record) ∨
    (v ≠ s.record.value f ∧ (updateSlot f v s).chg = s.chg ||| changeBit f ∧
      (updateSlot f v s).record = s.record.put f v) ∨
    (v ≠ s.record.value f ∧ f = .ltarf ∧ (updateSlot f v s).chg = s.chg ||| changeBit f ||| changeBit .peak ∧
      ∃ p, p ≠ (s.record.put f v).peak ∧ (updateSlot f v s).record = { s.record.put f v with peak := p }) := by
  unfold updateSlot
  split
  · refine .inr ?_
    dsimp only
    split
    · unfold peakFlip
      dsimp only
      split
      · exact .inr ⟨‹_›, ‹_›, by simp [setPeak], _, ‹_›, by simp only [setPeak, emit_record, setLed_record,
          markChanged_record]⟩
      · exact .inl ⟨‹_›, rfl, rfl⟩
    · exact .inl ⟨‹_›, rfl, rfl⟩
  · exact .inl ⟨rfl, rfl⟩

/-! ### DECODE_OP -/

/-- DECODE with a pending group that holds a string (41_decoder R200, R222). -/
theorem execDecode_pending {s : State} {str : Text} (h : pendingGroup s str) :
    exec .decode s = .next (setPhase .ready (decodeText str { s with decPending := false })) := by
  show outcomeOf ((decodeOp s).map (setPhase .ready)) = _
  rw [decodeOp, if_pos h.1, cstr_of_holds h.2.2 h.2.1]
  rfl

/-- Decoding a group's string leaves the pending flag. -/
theorem decodeText_decPending (str : Text) (s : State) : (decodeText str s).decPending = s.decPending := by
  unfold decodeText
  split
  · unfold decodeField
    split
    · unfold updateSlot peakFlip
      dsimp only
      split_ifs <;> simp [setPeak]
    · unfold rejectField
      split_ifs <;> rfl
  · rfl

/-- DECODE_OP leaves no group pending. -/
theorem decodeOp_decPending {s t : State} (h : decodeOp s = .ok t) : t.decPending = false := by
  unfold decodeOp at h
  split_ifs at h with hd
  · obtain ⟨str, -, rfl⟩ := map_ok h
    rw [decodeText_decPending]
  · cases h
    simpa using hd

/-- The two ends of the search for a tag in two lists walked together. -/
theorem find_zip_iff {l : List FieldId} {m : List Text} {tag : Text} {f : FieldId} (hm : m.Nodup) :
    ((l.zip m).find? fun p => decide (p.2 = tag)).map Prod.fst = some f ↔
      ∃ i : Nat, l[i]? = some f ∧ m[i]? = some tag := by
  induction l generalizing m with
  | nil => simp
  | cons a l ih =>
    cases m with
    | nil => simp
    | cons b m =>
      simp only [List.nodup_cons] at hm
      simp only [List.zip_cons_cons, List.find?_cons]
      by_cases hb : b = tag
      · subst hb
        simp only [decide_true]
        constructor
        · exact fun h => ⟨0, by simpa using h, by simp⟩
        · rintro ⟨_ | i, h1, h2⟩
          · simpa using h1
          · exact absurd (List.mem_of_getElem? (by simpa using h2)) hm.1
      · simp only [hb, decide_false]
        rw [ih hm.2]
        constructor
        · rintro ⟨i, h1, h2⟩
          exact ⟨i + 1, by simpa using h1, by simpa using h2⟩
        · rintro ⟨_ | i, h1, h2⟩
          · exact absurd (by simpa using h2) hb
          · exact ⟨i, by simpa using h1, by simpa using h2⟩

/-- The place of a field in the list of the fields with a tag is its field id (30_encoding R136). -/
theorem wireFields_getElem? (f : FieldId) (i : Nat) : wireFields[i]? = some f ↔ f ≠ .peak ∧ i = f.index := by
  constructor
  · intro h
    have hi : i < 17 := by
      by_contra hc
      rw [List.getElem?_eq_none (by simp only [wireFields, List.length_cons, List.length_nil]; omega)] at h
      cases h
    interval_cases i <;> (simp [wireFields] at h; subst h; simp [FieldId.index])
  · rintro ⟨h, rfl⟩
    cases f <;> first | rfl | exact absurd rfl h

/-! ### Texts -/

/-- The number of a string of digits after the number `acc` (41_decoder R203). -/
theorem digitsValue_eq (t : Text) (acc : Nat) :
    digitsValue t acc = acc * 10 ^ t.length +
      ((List.range t.length).map fun i => ((t.getD i 0).toNat - 0x30) * 10 ^ (t.length - 1 - i)).sum := by
  induction t generalizing acc with
  | nil => simp [digitsValue]
  | cons c t ih =>
    have hi : ∀ i, t.length + 1 - 1 - (i + 1) = t.length - 1 - i := fun i => by omega
    rw [digitsValue, ih]
    simp only [List.length_cons, List.range_succ_eq_map, List.map_cons, List.map_map, List.sum_cons, Function.comp_def,
      List.getD_cons_zero, List.getD_cons_succ, Nat.succ_eq_add_one, hi]
    simp
    ring

theorem splitText_length {d : Byte} {str t : Text} (h : t ∈ splitText d str) : t.length ≤ str.length := by
  induction str generalizing t with
  | nil =>
    obtain rfl := List.mem_singleton.mp h
    exact le_rfl
  | cons c cs ih =>
    unfold splitText at h
    split at h
    · rcases List.mem_cons.mp h with rfl | h
      · exact Nat.zero_le _
      · exact (ih h).trans (Nat.le_succ _)
    · cases hs : splitText d cs with
      | nil =>
        rw [hs] at h
        obtain rfl := List.mem_singleton.mp h
        exact Nat.succ_le_succ (Nat.zero_le _)
      | cons a as =>
        rw [hs] at h ih
        rcases List.mem_cons.mp h with rfl | h
        · exact Nat.succ_le_succ (ih (List.mem_cons_self ..))
        · exact (ih (List.mem_cons_of_mem _ h)).trans (Nat.le_succ _)

/-- No token is longer than the string it is cut from. -/
theorem tokenize_length (d : Byte) (str : Text) :
    (tokenize d str).tag.length ≤ str.length ∧ (tokenize d str).t1.length ≤ str.length ∧
      ∀ t, (tokenize d str).t2 = some t → t.length ≤ str.length := by
  have h : ∀ t ∈ splitText d str, t.length ≤ str.length := fun t => splitText_length
  unfold tokenize
  rcases hs : splitText d str with _ | ⟨a, _ | ⟨b, _ | ⟨c, l⟩⟩⟩ <;> rw [hs] at h <;> simp at h ⊢ <;> simp [h]

/-- The value a validator gives is no longer than its tokens (10_state R42). -/
theorem validate_fits {cfg : Params} {r : Record} {f : FieldId} {t1 : Text} {t2 : Option Text} {v : Value} {n : Nat}
    (h : validate cfg r f t1 t2 = some v) (h1 : t1.length ≤ n) (h2 : ∀ t, t2 = some t → t.length ≤ n) : v.fits n := by
  have hv : v.fits n ∨ v = .text t1 := by
    cases f <;> simp only [validate, validateIndex, validateNonzero, validateVoltage, validatePref, validatePower,
      validateSample] at h <;> (repeat' split at h) <;> first
      | (cases h; exact .inr rfl)
      | (cases h; exact .inl trivial)
      | (cases h; exact .inl (h2 _ rfl))
      | cases h
  rcases hv with h | rfl
  · exact h
  · exact h1

/-- A record whose texts fit keeps that when a value that fits is put into it. -/
theorem fits_put {r : Record} {n : Nat} (f : FieldId) {v : Value} (hr : ∀ g, (r.value g).fits n) (hv : v.fits n)
    (g : FieldId) : ((r.put f v).value g).fits n := by
  by_cases hg : g = f
  · subst hg
    by_cases hx : (r.put g v).value g = v
    · rw [hx]
      exact hv
    · have hn : r.put g v = r := by cases g <;> cases v <;> first | rfl | exact absurd rfl hx
      rw [hn]
      exact hr g
  · rw [value_put_other r v hg]
    exact hr g

end Sys2Proof.Machine
end

