-- ==== Sys2Proof/Laws/Encoding.lean ====
section
/-! SUPPORT. Command words: the fields in the arithmetic of the rules, the fields of an assembled word, the slot a field names,
and that a decoded command is well formed. -/

namespace Sys2Proof.Machine

/-- OP as a number (30_encoding R120). -/
theorem opField_toNat (w : Word) : (opField w).toNat = w.toNat / 2 ^ 28 := by
  have := w.isLt
  simp only [opField, BitVec.extractLsb'_toNat, Nat.shiftRight_eq_div_pow]
  omega

/-- T as a number (30_encoding R120). -/
theorem timerField_toNat (w : Word) : (timerField w).toNat = w.toNat / 2 ^ 24 % 16 := by
  simp only [timerField, BitVec.extractLsb'_toNat, Nat.shiftRight_eq_div_pow]

/-- The fields of a word put together from its fields. -/
theorem commandWord_fields (op f : BitVec 4) (imm : Byte) :
    opField (commandWord op f imm) = op ∧ timerField (commandWord op f imm) = f ∧
      immField (commandWord op f imm) = imm := by
  unfold opField timerField immField commandWord
  refine ⟨?_, ?_, ?_⟩ <;>
    (ext i hi; simp only [BitVec.getElem_extractLsb', BitVec.getLsbD_append]; interval_cases i <;> simp)

/-- The field of a slot names that slot. -/
theorem timerOfField_field {n : Nat} {t : TimerId} (h : t.wellFormed n = true) : timerOfField n t.field = some t := by
  simp only [TimerId.wellFormed, Bool.and_eq_true, decide_eq_true_eq] at h
  have hf : t.field.toNat = t.index := by
    simp only [TimerId.field, BitVec.toNat_ofNat]
    omega
  rw [timerOfField, hf, if_pos h.1, ofIndex_index]

/-- What a field T names: the slot of its number, when that is below N_TIMERS (30_encoding R122). -/
theorem timerOfField_eq_some {n : Nat} {f : BitVec 4} {t : TimerId} :
    timerOfField n f = some t ↔ t.wellFormed n = true ∧ t.field = f := by
  constructor
  · intro h
    unfold timerOfField at h
    split at h
    case isTrue hn =>
      cases h
      have hf := f.isLt
      refine ⟨by simpa [TimerId.wellFormed] using ⟨hn, hf⟩, ?_⟩
      simp [TimerId.field]
    case isFalse => cases h
  · rintro ⟨h, rfl⟩
    exact timerOfField_field h

/-- Everything the decoding of a timer command can answer. -/
theorem decodeTimer_ok {n : Nat} {w : Word} {mk : TimerId → Instr} {i : Instr} :
    decodeTimer n w mk = .ok i ↔ ∃ t : TimerId, t.wellFormed n = true ∧ t.field = timerField w ∧ i = mk t := by
  unfold decodeTimer
  cases h : timerOfField n (timerField w) with
  | none =>
    refine ⟨fun he => (nomatch he), ?_⟩
    rintro ⟨t, ht, hf, -⟩
    rw [← hf, timerOfField_field ht] at h
    cases h
  | some t =>
    obtain ⟨ht, hf⟩ := timerOfField_eq_some.mp h
    refine ⟨fun he => ⟨t, ht, hf, (Except.ok.inj he).symm⟩, ?_⟩
    rintro ⟨u, hu, hv, rfl⟩
    rw [← hv, timerOfField_field hu] at h
    cases h
    rfl

/-- A decoded command is well formed. -/
theorem decode_wellFormed {n : Nat} {w : Word} {i : Instr} (h : decode n w = .ok i) : i.wellFormed n = true := by
  unfold decode at h
  split at h <;> first
    | (cases h; rfl)
    | (obtain ⟨t, ht, -, rfl⟩ := decodeTimer_ok.mp h
       exact ht)
    | cases h

/-- The decoder on the lanes of a word is the decoder on the word (20_memory R94). -/
theorem decodeTableWord_eq (w : Word) :
    decodeTableWord 32 w.toNat = match decode Config.params.nTimers w with
      | .ok i => some i
      | .error _ => none := by
  have hw : wordOfLanes (laneOf w.toNat 0) (laneOf w.toNat 1) (laneOf w.toNat 2) (laneOf w.toNat 3) = w := by
    apply BitVec.eq_of_toNat_eq
    have := w.isLt
    unfold wordOfLanes laneOf
    simp only [BitVec.toNat_append, BitVec.toNat_ofNat]
    rw [← Nat.shiftLeft_add_eq_or_of_lt (by omega), ← Nat.shiftLeft_add_eq_or_of_lt (by omega),
      ← Nat.shiftLeft_add_eq_or_of_lt (by omega)]
    simp only [Nat.shiftLeft_eq]
    omega
  cases h : decode Config.params.nTimers w <;>
    simp only [decodeTableWord, Nat.mod_eq_of_lt w.isLt, decodeBytes, hw, le_refl, if_true, h]

end Sys2Proof.Machine
end

