-- ==== Sys2Proof/Laws/PerInstr.lean ====
section
/-! SUPPORT. Statements made per instruction. -/

namespace Sys2Proof.Laws

/-- The opcode of a command's row (30_encoding R121). -/
def opcodeOf : Instr → Nat
  | .nop => 0x0
  | .poll => 0x1
  | .decode => 0x2
  | .feed => 0x3
  | .rxbyte _ => 0x4
  | .tcfg _ _ _ => 0x5
  | .tstart _ => 0x6
  | .trestart _ => 0x7
  | .tstop _ => 0x8
  | .tpoll _ => 0x9
  | .tpollall => 0xA

/-- The encoded word carries its row's opcode in OP and no bit the command does not use. -/
def OpcodeField.Statement (i : Instr) : Prop :=
  (opField (encode i)).toNat = opcodeOf i ∧ encode i &&& ~~~(usedBits i) = 0#32

theorem OpcodeField.nop : OpcodeField.Statement .nop := by unfold OpcodeField.Statement; decide

theorem OpcodeField.poll : OpcodeField.Statement .poll := by unfold OpcodeField.Statement; decide

theorem OpcodeField.decode : OpcodeField.Statement .decode := by unfold OpcodeField.Statement; decide

theorem OpcodeField.feed : OpcodeField.Statement .feed := by unfold OpcodeField.Statement; decide

theorem OpcodeField.rxbyte (b : Byte) : OpcodeField.Statement (.rxbyte b) := by
  unfold OpcodeField.Statement
  revert b
  decide

/-- The fields of a timer command's word, whatever the four bits of T. -/
theorem timer_word (op f : BitVec 4) :
    opField (commandWord op f 0) = op ∧ commandWord op f 0 &&& ~~~0xFF000000#32 = 0#32 := by
  revert op f
  decide

/-- The fields of TCFG's word, whatever the four bits of T. -/
theorem tcfg_word (f : BitVec 4) (rep cben : Bool) :
    (opField (commandWord 0x5 f (tcfgImm rep cben))).toNat = 0x5 ∧
      commandWord 0x5 f (tcfgImm rep cben) &&& ~~~0xFF000003#32 = 0#32 := by
  revert f rep cben
  decide

theorem OpcodeField.tcfg (t : TimerId) (rep cben : Bool) : OpcodeField.Statement (.tcfg t rep cben) :=
  tcfg_word t.field rep cben

theorem OpcodeField.tstart (t : TimerId) : OpcodeField.Statement (.tstart t) :=
  ⟨congrArg BitVec.toNat (timer_word 0x6 t.field).1, (timer_word 0x6 t.field).2⟩

theorem OpcodeField.trestart (t : TimerId) : OpcodeField.Statement (.trestart t) :=
  ⟨congrArg BitVec.toNat (timer_word 0x7 t.field).1, (timer_word 0x7 t.field).2⟩

theorem OpcodeField.tstop (t : TimerId) : OpcodeField.Statement (.tstop t) :=
  ⟨congrArg BitVec.toNat (timer_word 0x8 t.field).1, (timer_word 0x8 t.field).2⟩

theorem OpcodeField.tpoll (t : TimerId) : OpcodeField.Statement (.tpoll t) :=
  ⟨congrArg BitVec.toNat (timer_word 0x9 t.field).1, (timer_word 0x9 t.field).2⟩

theorem OpcodeField.tpollall : OpcodeField.Statement .tpollall := by unfold OpcodeField.Statement; decide

end Sys2Proof.Laws
end

