-- ==== Sys2Proof/Laws/Step.lean ====
section
/-! SUPPORT. Everything a microstep, an environment step and a step of the system can do, said once: a proof about every
step takes these cases apart and cites the frame of the operation each case names. -/

namespace Sys2Proof.Machine

/-- The outcome of a computation that answers is a next state. -/
theorem outcomeOf_next {x : Except Fault State} {t : State} : outcomeOf x = .next t ↔ x = .ok t := by
  cases x <;> simp [outcomeOf]

/-- What a microstep can do (45_control R321): nothing but the phase, a byte handed to the receiver, DECODE_OP, a poll of one
timer, a write of one timer slot, or a report of timer misuse. The phase says which, when it is one a run can reach. -/
inductive Microstep (s : State) : State → Prop
  | phaseOnly (p : Phase) : Microstep s (setPhase p s)
  | byte (b : Byte) (v : State) (hb : s.phase = .exec (.rxbyte b) ∨ s.phase.ok s.cfg.nTimers = false) (h : rxStep b s = .ok v) :
      Microstep s (setPhase .ready v)
  | queued (b : Byte) (q : List Byte) (p : Phase) (v : State) (hq : s.rxq = b :: q)
      (hp : s.phase = .feedLoop ∨ s.phase = .pollFeed ∨ s.phase.ok s.cfg.nTimers = false)
      (h : rxStep b { s with rxq := q } = .ok v) : Microstep s (setPhase p v)
  | decode (p : Phase) (v : State) (hp : runsDecode s ∨ s.phase.ok s.cfg.nTimers = false) (h : decodeOp s = .ok v) :
      Microstep s (setPhase p v)
  | poll (t : TimerId) (p : Phase) (hp : pollsTimer s t ∨ s.phase.ok s.cfg.nTimers = false) : Microstep s (setPhase p (tPoll t s))
  | slot (t : TimerId) (x : SoftTimer) : Microstep s (setPhase .ready (setTimer t x s))
  | misuse (t : TimerId) (r : Misuse) : Microstep s (setPhase .ready (emit (.logTimerMisuse t r) s))

/-- Everything FEEDSTEP can do (40_receiver R173). -/
theorem feedStep_cases {s t : State} {loop next : Phase} (hp : s.phase = .feedLoop ∨ s.phase = .pollFeed ∨ s.phase.ok s.cfg.nTimers = false)
    (h : feedStep loop next s = .ok t) : Microstep s t := by
  unfold feedStep at h
  split at h
  · cases h
    exact .phaseOnly _
  · obtain ⟨v, hv, rfl⟩ := map_ok h
    exact .queued _ _ _ v ‹_› hp hv

/-- Everything T_START can do (42_softtimer R261). -/
theorem tStart_cases (t : TimerId) (s : State) : Microstep s (setPhase .ready (tStart t s)) := by
  unfold tStart
  split_ifs
  · exact .misuse t _
  · exact .misuse t _
  · exact .slot t _

/-- Everything a microstep can do. -/
theorem microstep_cases {s t : State} (h : microstep s = .next t) : Microstep s t := by
  unfold microstep at h
  split at h
  case h_2 =>
    cases h
    exact .phaseOnly s.phase
  case h_1 i hi =>
    have hx : ∀ c, s.phase = .exec c → c.isSingleStep = false → s.phase.ok s.cfg.nTimers = false := fun c hc hn => by
      rw [hc, Phase.ok, hn]
      rfl
    have hc : s.phase = .exec i ∨ (i = .poll ∧ (s.phase = .pollDec ∨ s.phase = .pollFeed ∨ ∃ u, s.phase = .pollTmr u)) ∨
        (i = .feed ∧ s.phase = .feedLoop) ∨ (i = .tpollall ∧ ∃ u, s.phase = .tpa u) := by
      revert hi
      cases s.phase <;> intro hi <;> cases hi <;> simp
    cases i with
    | nop =>
      cases h
      exact .phaseOnly _
    | poll =>
      change execPoll s = _ at h
      unfold execPoll at h
      split at h
      · exact feedStep_cases (.inr (.inl ‹_›)) (outcomeOf_next.mp h)
      · cases h
        exact .poll _ _ (.inl (.inr (.inl ‹_›)))
      · obtain ⟨v, hv, rfl⟩ := map_ok (outcomeOf_next.mp h)
        refine .decode _ v ?_ hv
        rcases hc with hc | ⟨-, hc | hc | ⟨u, hc⟩⟩ | ⟨hc, -⟩ | ⟨hc, -⟩
        · exact .inr (hx _ hc rfl)
        · exact .inl (.inr hc)
        · exact absurd hc ‹_›
        · exact absurd hc (by apply_assumption)
        · cases hc
        · cases hc
    | decode =>
      obtain ⟨v, hv, rfl⟩ := map_ok (outcomeOf_next.mp h)
      refine .decode _ v (.inl (.inl ?_)) hv
      simpa using hc
    | feed =>
      refine feedStep_cases ?_ (outcomeOf_next.mp h)
      rcases hc with hc | ⟨hc, -⟩ | ⟨-, hc⟩ | ⟨hc, -⟩
      · exact .inr (.inr (hx _ hc rfl))
      · cases hc
      · exact .inl hc
      · cases hc
    | rxbyte b =>
      obtain ⟨v, hv, rfl⟩ := map_ok (outcomeOf_next.mp h)
      exact .byte b v (.inl (by simpa using hc)) hv
    | tcfg t rep cben =>
      cases h
      exact .slot t _
    | tstart t =>
      cases h
      exact tStart_cases t s
    | trestart t =>
      cases h
      exact .slot t _
    | tstop t =>
      cases h
      exact .slot t _
    | tpoll t =>
      cases h
      exact .poll t _ (.inl (.inl (by simpa using hc)))
    | tpollall =>
      cases h
      refine .poll _ _ ?_
      rcases hc with hc | ⟨hc, -⟩ | ⟨hc, -⟩ | ⟨-, u, hc⟩
      · exact .inr (hx _ hc rfl)
      · cases hc
      · cases hc
      · refine .inl (.inr (.inr ?_))
        rw [tpollallSlot, hc]

/-- Everything a step of the system can do (45_control R334). -/
theorem step_cases {s t : State} (h : step s = .next t) :
    (blockNext s ∧ ∃ ts, Microstep { s with turns := ts } t) ∨
      ∃ a ts, s.turns = .env a :: ts ∧ t = envStep a { s with turns := ts } := by
  unfold step at h
  split at h
  · exact .inl ⟨.inl ‹_›, s.turns, microstep_cases h⟩
  · exact .inl ⟨.inr ⟨_, ‹_›⟩, _, microstep_cases h⟩
  · cases h
    exact .inr ⟨_, _, ‹_›, rfl⟩

/-! ### The receiver's byte -/

/-- What storing a byte leaves of the flags and the measurements. -/
theorem advanceCursor_eq (s : State) :
    advanceCursor s = { s with
      cursor := (advanceCursor s).cursor, rxPhase := (advanceCursor s).rxPhase, events := (advanceCursor s).events } := by
  unfold advanceCursor
  split_ifs <;> rfl

/-- What the phase-dependent handling of a byte does not lower or change: the sticky flags, the measured duration, the
health class and the timers. -/
theorem phaseByte_flags {b : Byte} {s t : State} (h : phaseByte b s = .ok t) :
    (s.sofSeen = true → t.sofSeen = true) ∧ (s.overrun = true → t.overrun = true) ∧ t.lastDur = s.lastDur ∧
      t.healthy = s.healthy ∧ t.tmr = s.tmr := by
  unfold phaseByte at h
  split at h
  · cases h
    unfold idleByte
    split_ifs <;> exact ⟨fun h => by first | rfl | exact h, id, rfl, rfl, rfl⟩
  · split_ifs at h
    · unfold complete at h
      split at h
      case h_2 => cases h
      case h_1 u hu =>
        obtain ⟨-, rfl⟩ := memWrite_ok.mp hu
        obtain ⟨v, hv, rfl⟩ := map_ok h
        unfold judgeGroup at hv
        split_ifs at hv
        · cases hv
          exact ⟨id, id, rfl, rfl, rfl⟩
        · unfold checkGroup at hv
          split at hv
          · split_ifs at hv
            · obtain ⟨w, hw, rfl⟩ := map_ok hv
              obtain ⟨-, rfl⟩ := memWrite_ok.mp hw
              exact ⟨id, fun h => by simp [toIdle, swapRoles, h], rfl, rfl, rfl⟩
            · cases hv
              exact ⟨id, id, rfl, rfl, rfl⟩
          · cases hv
          · cases hv
    · obtain ⟨u, hu, rfl⟩ := map_ok h
      obtain ⟨-, rfl⟩ := memWrite_ok.mp hu
      rw [advanceCursor_eq]
      exact ⟨id, id, rfl, rfl, rfl⟩

/-- What RXSTEP does to the sticky flags, and, with a byte other than EOF, to the measurement, the health class and the
timers. -/
theorem rxStep_flags {b : Byte} {s t : State} (h : rxStep b s = .ok t) :
    (s.sofSeen = true → t.sofSeen = true) ∧ (s.overrun = true → t.overrun = true) ∧
      (b ≠ s.cfg.eof → t.lastDur = s.lastDur ∧ t.healthy = s.healthy ∧ t.tmr = s.tmr) := by
  unfold rxStep at h
  split_ifs at h with he
  · obtain ⟨h1, h2, -⟩ := phaseByte_flags h
    rw [frameEnd, classify_eq] at h1 h2
    exact ⟨h1, h2, fun hb => absurd he hb⟩
  · obtain ⟨h1, h2, h3⟩ := phaseByte_flags h
    exact ⟨h1, h2, fun _ => h3⟩

/-! ### The poll of a timer -/

/-- A timer that is not due is left alone; a due one fires (42_softtimer R261). -/
theorem tPoll_not_due {t : TimerId} {s : State} (h : timerDue s t = false) : tPoll t s = s := by
  rw [tPoll, if_neg (by simp [h])]

/-- What polling a timer other than the watchdog leaves of the health class, and one other than a report timer of the
change mask. -/
theorem tPoll_other (t : TimerId) (s : State) :
    (t ≠ .wdog → (tPoll t s).healthy = s.healthy) ∧ (t ≠ .minp → t ≠ .maxp → (tPoll t s).chg = s.chg) := by
  have hr : (rearm t s).healthy = s.healthy ∧ (rearm t s).chg = s.chg := by
    unfold rearm
    split_ifs <;> exact ⟨rfl, rfl⟩
  unfold tPoll fire
  split_ifs
  · cases t
    · exact ⟨fun _ => hr.1, fun h => absurd rfl h⟩
    · exact ⟨fun _ => hr.1, fun _ h => absurd rfl h⟩
    · exact ⟨fun _ => hr.1, fun _ _ => hr.2⟩
    · exact ⟨fun _ => hr.1, fun _ _ => hr.2⟩
    · refine ⟨fun h => absurd rfl h, fun _ _ => ?_⟩
      show (classify false (rearm .wdog s)).chg = s.chg
      rw [classify_eq]
      exact hr.2
    · exact ⟨fun _ => hr.1, fun _ _ => hr.2⟩
  · exact ⟨fun _ => hr.1, fun _ _ => hr.2⟩
  · exact ⟨fun _ => rfl, fun _ _ => rfl⟩

/-- The change mask after a poll is the one before it, or 0. -/
theorem tPoll_chg (t : TimerId) (s : State) : (tPoll t s).chg = s.chg ∨ (tPoll t s).chg = 0 := by
  have hr : (rearm t s).chg = s.chg := by
    unfold rearm
    split_ifs <;> rfl
  unfold tPoll fire
  split_ifs
  · cases t
    · exact .inr rfl
    · exact .inr rfl
    · exact .inl hr
    · exact .inl hr
    · refine .inl ?_
      show (classify false (rearm .wdog s)).chg = s.chg
      rw [classify_eq]
      exact hr
    · exact .inl hr
  · exact .inl hr
  · exact .inl rfl

end Sys2Proof.Machine
end

