-- ==== Sys2Proof/Laws/Timers.lean ====
section
/-! SUPPORT. What well-formed parameters give, and what the timers' operations do: elapsed time, the test for a due timer, the
re-arm, a write of one slot. -/

namespace Sys2Proof.Machine

/-- The constraints on well-formed parameters, one field each (00_scope R9). -/
structure ParamsFacts (c : Params) : Prop where
  bufCap : 10 ≤ c.bufCap
  minGroup : 3 ≤ c.minGroupLen
  minGroup_le : c.minGroupLen ≤ c.bufCap - 2
  clock_pos : 1 ≤ c.clockBits
  clock_le : c.clockBits ≤ 32
  queue : 1 ≤ c.rxqDepth
  control : [c.sof, c.eof, c.sog, c.eog, c.sep].Nodup
  literals : c.litPeak ≠ c.litOffpeak
  tags : c.tagNames.length = 17
  tags_nodup : c.tagNames.Nodup
  adsc : 1 ≤ c.wAdsc
  prm : 1 ≤ c.wPrm
  slow : clockValue c c.blinkSlowMs
  fast : clockValue c c.blinkFastMs
  on : clockValue c c.blinkOnMs
  wdog : clockValue c c.wdogMs
  slots : 5 ≤ c.nTimers

theorem params_facts {c : Params} (h : c.wellFormed = true) : ParamsFacts c := by
  simp only [Params.wellFormed, Params.tagNamesOk, Params.controlBytesDistinct, Params.fitsClock, Bool.and_eq_true,
    decide_eq_true_eq] at h
  obtain ⟨⟨⟨⟨⟨⟨⟨⟨⟨⟨⟨⟨⟨⟨⟨h1, h2⟩, h3⟩, h4⟩, h5⟩, h6⟩, h7⟩, h8⟩, ⟨⟨h9, h10⟩, -⟩⟩, h11⟩, h12⟩, h13⟩, h14⟩, h15⟩, h16⟩, h17⟩ := h
  exact ⟨h1, h2, h3, h4, h5, h6, h7, h8, h9, h10, h11, h12, h13, h14, h15, h16, h17⟩

/-- Zero is a clock value. -/
theorem clockValue_zero (c : Params) : clockValue c 0 := by simp [clockValue]

/-- `wsub` is the difference of mathematical integers modulo `2^CLOCK_BITS` (00_scope R12). -/
theorem wsub_toNat {c : Params} (h : c.clockBits ≤ 32) (a b : Word) :
    ((wsub c a b).toNat : Int) = ((a.toNat : Int) - (b.toNat : Int)) % (2 ^ c.clockBits : Int) := by
  have h0 : (0 : Int) < 2 ^ c.clockBits := by positivity
  rw [wsub, clockOf_toNat h]
  push_cast
  rw [Int.toNat_of_nonneg (Int.emod_nonneg _ h0.ne'), Int.emod_emod]

/-- The test of T_POLL is the one of 42_softtimer R266. -/
theorem timerDue_iff {s : State} (h : s.cfg.clockBits ≤ 32) (t : TimerId) : timerDue s t = true ↔ isDue s t := by
  have he : ((elapsed s t).toNat : Int) = elapsedMs s t := wsub_toNat h ..
  rw [timerDue, isDue, ← he]
  simp

/-- A timer T_POLL finds due is due, whatever the parameters. -/
theorem isDue_of_timerDue {s : State} {t : TimerId} (h : timerDue s t = true) : isDue s t := by
  simp only [timerDue, ne_eq, Bool.and_eq_true, decide_eq_true_eq] at h
  have hle : ((elapsed s t).toNat : Int) ≤ elapsedMs s t := by
    have h0 : (0 : Int) < 2 ^ s.cfg.clockBits := by positivity
    have hc : (elapsed s t).toNat ≤
        (((s.now.toNat : Int) - ((timer s t).start.toNat : Int)) % (2 ^ s.cfg.clockBits : Nat)).toNat := by
      rw [elapsed, wsub, clockOf, BitVec.toNat_ofNat]
      exact (Nat.mod_le _ _).trans (Nat.mod_le _ _)
    calc ((elapsed s t).toNat : Int) ≤ _ := Int.ofNat_le.mpr hc
      _ = elapsedMs s t := by
        rw [Int.toNat_of_nonneg (Int.emod_nonneg _ (by exact_mod_cast h0.ne'))]
        push_cast
        rfl
  exact ⟨h.1, lt_of_lt_of_le (Int.ofNat_lt.mpr h.2) hle⟩

/-- Everything the re-arm can do (42_softtimer R261). -/
theorem rearm_eq (t : TimerId) (s : State) : rearm t s = setStart t (startAfterFiring s t) s := by
  unfold rearm startAfterFiring
  split_ifs <;> rfl

/-- Everything T_POLL can do (42_softtimer R261). -/
theorem tPoll_eq (t : TimerId) (s : State) :
    tPoll t s = if timerDue s t = true then
      (if (timer s t).cben = true then callback t (setStart t (startAfterFiring s t) s)
       else setStart t (startAfterFiring s t) s)
    else s := by
  rw [tPoll, fire, rearm_eq]

/-- A write of one slot writes that slot alone. -/
theorem set_slotBecomes {m : TimerBank} {t : TimerId} (h : m.has t) (x : SoftTimer) : slotBecomes m t x (m.set t x) :=
  ⟨get_set_same m x h, fun _ hu => get_set_other m x hu, set_others_length m t x⟩

/-- A timer with a delay or a start stands in a slot the bank has. -/
theorem has_of_timer {s : State} {t : TimerId} (h : (timer s t).delay ≠ 0 ∨ (timer s t).start ≠ 0) : s.tmr.has t := by
  by_contra hn
  rw [timer, get_absent s.tmr hn] at h
  simp [SoftTimer.zero] at h

end Sys2Proof.Machine
end

