-- ==== Sys2Proof/Laws/Window.lean ====
section
/-! SUPPORT. The register window and the environment steps: a bit of a word made of bits, a host access from what it reads or
writes, and what an environment step leaves unchanged. -/

namespace Sys2Proof.Machine

/-- Bit `j` of a word with bit `i` set to `b`. -/
theorem bitAt_getLsbD {i j : Nat} (b : Bool) (hj : j < 32) : (bitAt i b).getLsbD j = (b && decide (i = j)) := by
  cases b
  · simp [bitAt]
  · simp only [bitAt, if_true, BitVec.getLsbD_shiftLeft, BitVec.getLsbD_one]
    rcases lt_trichotomy i j with h | h | h
    · have h1 : j - i ≠ 0 := by omega
      have h2 : i ≠ j := by omega
      simp [h1, h2]
    · subst h
      simp [hj]
    · have h2 : i ≠ j := by omega
      simp [h, h2]

/-- Neither the turns nor what the host's bus saw last is read through the window. -/
theorem readOffset_env (s : State) (ts : List Turn) (b : BusReply) (off : Nat) :
    readOffset { s with turns := ts, busReply := b } off = readOffset s off := by
  unfold readOffset
  cases regAt off with
  | none => rfl
  | some r => cases r <;> rfl

/-- An access at an offset from BASE (20_memory R98). -/
theorem atOffset_base (access : Nat → State → State) (s : State) (off : Nat) :
    atOffset (s.cfg.base + off) access s = access off s := by
  rw [atOffset, if_pos (Nat.le_add_right _ _), Nat.add_sub_cancel_left]

/-- An aligned 32-bit read (45_control R332). -/
theorem readGives_of {s : State} {off : Nat} (h4 : off % 4 = 0) : readGives s off (readOffset s off) := by
  intro ts
  show Host.Outcome.next (hostRead ({ s with turns := ts }.cfg.base + off) 32 { s with turns := ts }) = _
  rw [hostRead, atOffset_base, readWindow, if_pos (by simp [accessOk, h4])]
  show Host.Outcome.next { s with turns := ts, busReply := .value (readOffset { s with turns := ts } off) } = _
  rw [show readOffset { s with turns := ts } off = readOffset s off from readOffset_env s ts s.busReply off]

/-- An aligned 32-bit write (45_control R332). -/
theorem writeGives_of {s t : State} {off : Nat} {v : Word} (h4 : off % 4 = 0)
    (h : ∀ ts, writeOffset off v { s with turns := ts } = { t with turns := ts }) : writeGives s off v t := by
  intro ts
  show Host.Outcome.next (hostWrite ({ s with turns := ts }.cfg.base + off) 32 v { s with turns := ts }) = _
  rw [hostWrite, atOffset_base, writeWindow, if_pos (by simp [accessOk, h4])]
  show Host.Outcome.next { writeOffset off v { s with turns := ts } with busReply := .written } = _
  rw [h]

/-- What CMD_WRITE leaves unchanged: everything but the phase, CMDERR and the event stream (45_control R320). -/
theorem cmdWrite_eq (w : Word) (s : State) :
    cmdWrite w s = { s with
      phase := (cmdWrite w s).phase, cmdErr := (cmdWrite w s).cmdErr, events := (cmdWrite w s).events } := by
  unfold cmdWrite submit
  split_ifs
  · rfl
  · split <;> rfl

/-- What an environment step other than RESET leaves unchanged, but the clock under TICK (45_control R330 to R332). -/
theorem envStep_keeps {a : EnvAction} (s : State) (ha : a ≠ .reset) :
    (envStep a s).cfg = s.cfg ∧ (envStep a s).mem = s.mem ∧ (envStep a s).rxSel = s.rxSel ∧
      (envStep a s).sofSeen = s.sofSeen ∧ (envStep a s).healthy = s.healthy ∧ (envStep a s).record = s.record ∧
      (envStep a s).chg = s.chg ∧ (envStep a s).tmr = s.tmr ∧ ((∀ d, a ≠ .tick d) → (envStep a s).now = s.now) := by
  cases a with
  | arrive b =>
    simp only [envStep, arrive]
    split_ifs <;> simp
  | tick d => simp [envStep, tick]
  | hostRead addr width =>
    simp only [envStep, hostRead, atOffset, readWindow]
    split_ifs <;> simp
  | hostWrite addr width v =>
    simp only [envStep, hostWrite, atOffset, writeWindow]
    split_ifs
    · simp only [writeOffset]
      split
      · simp [writeStatus]
      · rw [cmdWrite_eq]
        simp
      · simp
      · simp
    · simp
    · simp
  | reset => exact absurd rfl ha

end Sys2Proof.Machine
end

