-- ==== Sys2Proof/Tests/Slice0.lean ====
section
/-! SUPPORT. Tests. Expected words, bytes and results are those of 95_test_vectors (the vector is named at each test), with
the parameters of its section 0; the witnesses show states and operands that meet the hypotheses of the statements. -/

namespace Sys2Proof.Tests

open Sys2Proof.Machine

/-! ### Helpers -/

/-- "HEURE PLEINE" in ASCII. -/
def peakText : Text :=
  [0x48, 0x45, 0x55, 0x52, 0x45, 0x20, 0x50, 0x4C, 0x45, 0x49, 0x4E, 0x45]

/-- "HEURE CREUSE" in ASCII. -/
def offpeakText : Text :=
  [0x48, 0x45, 0x55, 0x52, 0x45, 0x20, 0x43, 0x52, 0x45, 0x55, 0x53, 0x45]

/-- The parameters of 95_test_vectors section 0, with an input queue of two bytes and the register window at 0x4000. -/
def vec : Params :=
  { Config.params with
    prefForbidden := (0, 99), litPeak := peakText, litOffpeak := offpeakText, blinkSlowMs := 3000, blinkFastMs := 500,
    rxqDepth := 2, base := 0x4000 }

/-- The same with buffers of 12 bytes, so that a full group is short. -/
def small : Params := { vec with bufCap := 12 }

/-- The same with a sixth timer slot. -/
def six : Params := { vec with nTimers := 6 }

/-- The reset state at clock value 1000. -/
def start (cfg : Params) : State := State.initial cfg 1000

/-- The reset state with a SOF taken. -/
def fresh (cfg : Params) : State := { start cfg with sofSeen := true }

/-- Cells 0, 1, ... of buffer A. -/
def cells (g : Text) : Memory := (List.range g.length).zip g

/-- Inside a group whose stored bytes are `g`. -/
def inGroup (cfg : Params) (g : Text) : State :=
  { fresh cfg with rxPhase := .receiving, cursor := g.length, mem := cells g }

/-- A pending group with string `str`, in buffer A. -/
def pendingState (cfg : Params) (str : Text) : State :=
  { fresh cfg with rxSel := .b, decPending := true, mem := cells (str ++ [0]) }

/-- A state with one timer changed. -/
def withTimer (t : TimerId) (delay start : Word) (rep cben : Bool) (s : State) : State :=
  setTimer t { delay := delay, start := start, rep := rep, cben := cben } s

/-- A field of the next state. -/
def after {α : Type} (f : State → α) : Out → Option α
  | .next s => some (f s)
  | .fault _ => none
  | .refused _ => none

/-- The texts of a value are at most `n` bytes long. -/
def fits (n : Nat) : Value → Bool
  | .text t => decide (t.length ≤ n)
  | .u32 _ => true
  | .sample x => decide (x.stamp.length ≤ n)
  | .bool _ => true

/-- The invariant, as a check that computes. -/
def meetsInvariant (s : State) : Bool :=
  s.cfg.wellFormed && s.phase.ok s.cfg.nTimers && decide (s.cursor ≤ s.cfg.bufCap - 2) &&
  (s.rxPhase == .receiving || decide (s.cursor = 0)) && (s.rxPhase == .idle || s.sofSeen) &&
  (s.rxPhase == .idle || (List.range s.cursor).all fun i => (cell s s.rxSel i).isSome) &&
  (!s.decPending || (List.range (s.cfg.bufCap - 3)).any fun n =>
    cell s s.rxSel.other n == some 0x00#8 && (List.range n).all fun i => (cell s s.rxSel.other i).isSome) &&
  Memory.wf s.mem && s.mem.all (fun c => decide (c.1 < 2 * s.cfg.bufCap)) && decide (s.rxq.length ≤ s.cfg.rxqDepth) &&
  allFields.all (fun f => fits (s.cfg.bufCap - 4) (s.record.value f)) &&
  [s.now, s.frameStart, s.lastDur].all (fun v => decide (v.toNat < 2 ^ s.cfg.clockBits)) &&
  ([s.tmr.minp, s.tmr.maxp, s.tmr.stat, s.tmr.blnk, s.tmr.wdog] ++ s.tmr.others).all (fun x =>
    decide (x.delay.toNat < 2 ^ s.cfg.clockBits) && decide (x.start.toNat < 2 ^ s.cfg.clockBits)) &&
  decide (5 + s.tmr.others.length = s.cfg.nTimers)

/-- The check decides the invariant. -/
theorem test_meetsInvariant_sound {s : State} (h : meetsInvariant s = true) : Invariant s := by
  simp only [meetsInvariant, Bool.and_eq_true, decide_eq_true_eq] at h
  obtain ⟨⟨⟨⟨⟨⟨⟨⟨⟨⟨⟨⟨⟨h1, h2⟩, h3⟩, h4⟩, h5⟩, h6⟩, h7⟩, h8⟩, h9⟩, h10⟩, h11⟩, h12⟩, h13⟩, h14⟩ := h
  have hf : ∀ f, (s.record.value f).fits (s.cfg.bufCap - 4) := fun f => by
    have hm : fits (s.cfg.bufCap - 4) (s.record.value f) = true := List.all_eq_true.mp h11 f (by cases f <;> decide)
    cases hv : s.record.value f <;> rw [hv] at hm <;> simp_all [fits, Value.fits]
  simp only [List.all_cons, List.all_nil, Bool.and_true, Bool.and_eq_true, decide_eq_true_eq] at h12
  have ht : ∀ x, x ∈ [s.tmr.minp, s.tmr.maxp, s.tmr.stat, s.tmr.blnk, s.tmr.wdog] ++ s.tmr.others →
      timerValues s.cfg x := fun x hx => by simpa [timerValues, clockValue] using List.all_eq_true.mp h13 x hx
  refine ⟨h1, h2, h3, fun hi => ?_, fun hr => ?_, fun hr i hi => ?_, fun hd => ?_, h8, fun c hc => ?_, h10, hf, h12.1,
    h12.2.1, h12.2.2, fun t => ?_, h14⟩
  · simpa [hi] using h4
  · simpa [hr] using h5
  · simp only [hr, beq_iff_eq, reduceCtorEq, Bool.or_eq_true, false_or] at h6
    exact List.all_eq_true.mp h6 i (List.mem_range.mpr hi)
  · simp only [hd, Bool.not_true, Bool.false_or] at h7
    obtain ⟨n, hn, hz⟩ := List.any_eq_true.mp h7
    simp only [Bool.and_eq_true, beq_iff_eq] at hz
    exact ⟨n, List.mem_range.mp hn, hz.1, fun i hi => List.all_eq_true.mp hz.2 i (List.mem_range.mpr hi)⟩
  · simpa using List.all_eq_true.mp h9 c hc
  · cases t with
    | other k =>
      show timerValues s.cfg (s.tmr.others.getD k SoftTimer.zero)
      rw [List.getD_eq_getElem?_getD]
      cases hk : s.tmr.others[k]? with
      | none => exact ⟨clockValue_zero _, clockValue_zero _⟩
      | some x => exact ht x (by simp [List.mem_of_getElem? hk])
    | _ => exact ht _ (by simp [timer, TimerBank.get])

/-! ### Well-formedness: each check accepts the test parameters and refuses an ill-formed term -/

theorem test_parameters_accepted : vec.wellFormed = true ∧ small.wellFormed = true := by decide

theorem test_short_buffer_refused : { vec with bufCap := 9, minGroupLen := 7 }.wellFormed = false := by decide

theorem test_least_buffer_accepted : { vec with bufCap := 10 }.wellFormed = true := by decide

theorem test_short_least_group_refused : { vec with minGroupLen := 2 }.wellFormed = false := by decide

theorem test_long_least_group_refused :
    { vec with minGroupLen := 63 }.wellFormed = false ∧ { vec with minGroupLen := 62 }.wellFormed = true := by decide

theorem test_no_clock_refused : { vec with clockBits := 0 }.wellFormed = false := by decide

theorem test_wide_clock_refused : { vec with clockBits := 33 }.wellFormed = false := by decide

theorem test_no_queue_refused : { vec with rxqDepth := 0 }.wellFormed = false := by decide

theorem test_equal_control_bytes_refused : { vec with sep := 0x0A }.wellFormed = false := by decide

theorem test_equal_literals_refused : { vec with litOffpeak := peakText }.wellFormed = false := by decide

theorem test_missing_tag_refused : { vec with tagNames := Config.tagNames.tail }.wellFormed = false := by decide

theorem test_equal_tags_refused :
    { vec with tagNames := [0x56, 0x54, 0x49, 0x43] :: Config.tagNames.tail }.wellFormed = false := by decide

theorem test_empty_tag_refused : { vec with tagNames := [] :: Config.tagNames.tail }.wellFormed = false := by decide

theorem test_tag_with_separator_refused :
    { vec with tagNames := [0x41, 0x09] :: Config.tagNames.tail }.wellFormed = false := by decide

theorem test_tag_with_nul_refused :
    { vec with tagNames := [0x41, 0x00] :: Config.tagNames.tail }.wellFormed = false := by decide

theorem test_no_identifier_width_refused :
    { vec with wAdsc := 0 }.wellFormed = false ∧ { vec with wPrm := 0 }.wellFormed = false := by decide

theorem test_period_beyond_clock_refused :
    { vec with clockBits := 11 }.wellFormed = false ∧
    { vec with clockBits := 14, blinkSlowMs := 16384 }.wellFormed = false ∧
    { vec with clockBits := 14, blinkFastMs := 16384 }.wellFormed = false ∧
    { vec with clockBits := 14, blinkOnMs := 16384 }.wellFormed = false ∧
    { vec with clockBits := 14, wdogMs := 16384 }.wellFormed = false ∧
    { vec with clockBits := 14 }.wellFormed = true := by decide

theorem test_few_timers_refused :
    { vec with nTimers := 4 }.wellFormed = false ∧ six.wellFormed = true := by decide

/-- 30_encoding R122, R124: a command whose slot is N_TIMERS, or needs a fifth bit of T, is ill-formed. -/
theorem test_absent_slot_refused :
    (Instr.tpoll (.other 0)).wellFormed 5 = false ∧ (Instr.tpoll (.other 0)).wellFormed 6 = true ∧
    (Instr.tcfg .wdog true true).wellFormed 5 = true ∧ (Instr.tstop (.other 11)).wellFormed 20 = false ∧
    (Instr.tstop (.other 10)).wellFormed 20 = true := by decide

/-- 30_encoding R124: a word is refused for its opcode or for its slot. -/
theorem test_illegal_words_refused :
    legalWord 5 0xB0000000 = false ∧ legalWord 5 0xFFFFFFFF = false ∧ legalWord 5 0x55000003 = false ∧
    legalWord 6 0x55000003 = true ∧ legalWord 5 0x9F000000 = false ∧ legalWord 5 0x94000000 = true ∧
    legalWord 5 0xAF000000 = true ∧ legalWord 5 0x4F000000 = true := by decide

/-! ### Decoding: each command from a word written out from the field layout of 30_encoding R120 -/

theorem test_decode_nop : decode 5 0b0000_0000_0000000000000000_00000000#32 = .ok .nop := by decide

theorem test_decode_poll : decode 5 0b0001_0000_0000000000000000_00000000#32 = .ok .poll := by decide

theorem test_decode_decode : decode 5 0b0010_0000_0000000000000000_00000000#32 = .ok .decode := by decide

theorem test_decode_feed : decode 5 0b0011_0000_0000000000000000_00000000#32 = .ok .feed := by decide

theorem test_decode_rxbyte : decode 5 0b0100_0000_0000000000000000_11000101#32 = .ok (.rxbyte 0xC5) := by decide

theorem test_decode_tcfg : decode 5 0b0101_0100_0000000000000000_00000001#32 = .ok (.tcfg .wdog true false) := by decide

theorem test_decode_tcfg_callback :
    decode 5 0b0101_0001_0000000000000000_00000010#32 = .ok (.tcfg .maxp false true) := by decide

theorem test_decode_tstart : decode 5 0b0110_0010_0000000000000000_00000000#32 = .ok (.tstart .stat) := by decide

theorem test_decode_trestart : decode 5 0b0111_0011_0000000000000000_00000000#32 = .ok (.trestart .blnk) := by decide

theorem test_decode_tstop : decode 5 0b1000_0000_0000000000000000_00000000#32 = .ok (.tstop .minp) := by decide

theorem test_decode_tpoll : decode 5 0b1001_0100_0000000000000000_00000000#32 = .ok (.tpoll .wdog) := by decide

/-- T = 5 names a sixth slot where there is one (30_encoding R122). -/
theorem test_decode_sixth_slot :
    decode 6 0b1001_0101_0000000000000000_00000000#32 = .ok (.tpoll (.other 0)) ∧
    decode 5 0b1001_0101_0000000000000000_00000000#32 = .error (.noSuchTimer 9 5) := by decide

theorem test_decode_tpollall : decode 5 0b1010_0000_0000000000000000_00000000#32 = .ok .tpollall := by decide

/-- 20_memory R94: lane 0 carries bits 7:0. -/
theorem test_decode_lanes : decodeBytes 5 [0xC5, 0x00, 0x00, 0x40] = .ok (.rxbyte 0xC5) := by decide

theorem test_decode_other_lengths_refused :
    decodeBytes 5 [] = .error (.notOneWord 0) ∧ decodeBytes 5 [0, 0, 0, 0, 0] = .error (.notOneWord 5) := by decide

/-! ### One step on a small state -/

/-- CT-1. -/
theorem test_nop_returns_to_ready :
    after id (exec .nop { fresh vec with phase := .exec .nop }) = some (fresh vec) := by decide

/-- P1, step 2 of its trace: the first microstep of POLL decodes "IRMS1 5". -/
theorem test_poll_decodes_first :
    after (fun t => (t.phase, t.record.irms1, t.chg))
      (exec .poll { pendingState vec [0x49, 0x52, 0x4D, 0x53, 0x31, 0x09, 0x35] with phase := .pollDec }) =
      some (.pollFeed, 5#32, 0x80#18) := by decide

/-- CT-2: after POLL_TMR(4) the block is READY. -/
theorem test_poll_ends_after_last_timer :
    after State.phase (exec .poll { fresh vec with phase := .pollTmr .wdog }) = some .ready := by decide

/-- DE-9. -/
theorem test_decode_flips_peak :
    after (fun t => (t.record.peak, t.chg, t.events))
      (exec .decode { pendingState vec ([0x4C, 0x54, 0x41, 0x52, 0x46, 0x09] ++ peakText) with
        record := { Record.atReset with ltarf := offpeakText } }) =
      some (true, 0x20010#18, [.gpio .peak true, .gpio .offpeak false, .logPeakTransition true]) := by decide

/-- DE-19 and DE-20: 250 is within 25 % of 200, 251 is not. -/
theorem test_decode_voltage_bound :
    let s := fun d => { pendingState vec [0x55, 0x52, 0x4D, 0x53, 0x31, 0x09, 0x32, 0x35, d] with
      record := { Record.atReset with urms1 := 200 } }
    after (fun t => (t.record.urms1, t.chg, t.events)) (exec .decode (s 0x30)) = some (250#32, 0x100#18, []) ∧
    after (fun t => (t.record.urms1, t.chg, t.events)) (exec .decode (s 0x31)) =
      some (200#32, 0#18, [.logFieldReject .urms1]) := by decide

/-- RX-15: the byte is a SOF at clock value 500. -/
theorem test_feed_takes_a_byte :
    after (fun t => (t.frameStart, t.rxq, t.phase))
      (exec .feed { fresh vec with now := 500, rxq := [0x02], phase := .feedLoop }) =
      some (500#32, [], .feedLoop) := by decide

/-- RX-7: the checksum of "IRMS1 5" is 'S', not 'K'. -/
theorem test_rxbyte_checksum_failure :
    after (fun t => (t.events, t.rxSel, t.decPending))
      (exec (.rxbyte 0x0D) (inGroup vec [0x49, 0x52, 0x4D, 0x53, 0x31, 0x09, 0x35, 0x09, 0x4B])) =
      some ([.logCksumFail 9 0x53 0x4B], .a, false) := by decide

/-- L1-2: with 'S' the group is accepted; its terminator stands where its last separator was. -/
theorem test_rxbyte_group_accepted :
    after (fun t => (t.events, t.rxSel, t.decPending, Memory.read t.mem 7, Memory.read t.mem 6))
      (exec (.rxbyte 0x0D) (inGroup vec [0x49, 0x52, 0x4D, 0x53, 0x31, 0x09, 0x35, 0x09, 0x53])) =
      some ([], .b, true, some 0x00#8, some 0x35#8) := by decide

/-- TM-7: the start is kept. -/
theorem test_tcfg_keeps_start :
    after (fun t => t.tmr.minp)
      (exec (.tcfg .minp true true) { withTimer .minp 100 10 false false (fresh vec) with data := 50 }) =
      some ⟨50, 10, true, true⟩ := by decide

/-- TM-2. -/
theorem test_tstart_arms :
    after (fun t => (t.tmr.blnk.start, t.events)) (exec (.tstart .blnk) { fresh vec with now := 100 }) =
      some (100#32, []) := by decide

/-- TM-4: ZERO_DELAY is checked first. -/
theorem test_tstart_zero_delay_first :
    after (fun t => (t.tmr.minp.start, t.events)) (exec (.tstart .minp) (withTimer .minp 0 55 true true (fresh vec))) =
      some (55#32, [.logTimerMisuse .minp .zeroDelay]) := by decide

/-- TM-14. -/
theorem test_trestart_no_check :
    after (fun t => t.tmr.stat.start)
      (exec (.trestart .stat) { withTimer .stat 500 100 true true (fresh vec) with now := 900 }) =
      some 900#32 := by decide

/-- TM-15. -/
theorem test_tstop_stops :
    after (fun t => t.tmr.wdog) (exec (.tstop .wdog) (withTimer .wdog 10000 77 true true (fresh vec))) =
      some ⟨10000, 0, true, true⟩ := by decide

/-- TM-5 and TM-6: at 150 ms nothing, at 151 ms the one-shot fires. -/
theorem test_tpoll_fires_past_delay :
    let s := fun v => { withTimer .blnk 150 100 false true (fresh vec) with now := v }
    after (fun t => (t.tmr.blnk.start, t.events)) (exec (.tpoll .blnk) (s 250)) = some (100#32, []) ∧
    after (fun t => (t.tmr.blnk.start, t.events)) (exec (.tpoll .blnk) (s 251)) =
      some (0#32, [.gpio .health false]) := by decide

/-- TM-11: the timer fires across the clock's wrap. -/
theorem test_tpoll_across_wrap :
    after (fun t => t.tmr.minp.start)
      (exec (.tpoll .minp) { withTimer .minp 20 4294967286 true false (fresh vec) with now := 11 }) =
      some 11#32 := by decide

/-- TM-16, its first microstep. -/
theorem test_tpollall_polls_slot_0 :
    after (fun t => (t.phase, t.events, t.chg))
      (exec .tpollall { withTimer .minp 100 1 true true (fresh vec) with
        now := 200, chg := 0x80, record := { Record.atReset with irms1 := 5 }, phase := .tpa .minp }) =
      some (.tpa .maxp, [.publish .irms1 (.u32 5)], 0#18) := by decide

/-- CT-7: the busy check comes first. -/
theorem test_busy_write_drops :
    after (fun t => (t.cmdErr, t.events, t.phase))
      (step { fresh vec with phase := .pollDec, turns := [.env (.hostWrite 0x4008 32 0xB0000000)] }) =
      some (true, [], .pollDec) := by decide

/-- CT-11: TMODE_3 and TDELAY_4 after reset. -/
theorem test_reads_timer_registers :
    after State.busReply (step { start vec with turns := [.env (.hostRead 0x4068 32)] }) = some (.value 2#32) ∧
    after State.busReply (step { start vec with turns := [.env (.hostRead 0x4070 32)] }) = some (.value 10000#32) := by
  decide

/-- The word of a command placed by `withFetchWord` is the one the next step runs. -/
theorem test_fetch_word_runs :
    after (fun t => (t.phase, t.tmr.wdog.start)) (step (State.withFetchWord { start vec with now := 7 } 32 0x74000000)) =
      some (.ready, 7#32) := by decide

/-! ### Witnesses: states and operands that meet the hypotheses of the statements, at the ends of their ranges -/

/-- "IRMS1 5", HT between tag and value. -/
def irmsText : Text := [0x49, 0x52, 0x4D, 0x53, 0x31, 0x09, 0x35]

/-- Its group with the checksum 'S' (95_test_vectors 0.1). -/
def irmsGroup : Text := irmsText ++ [0x09, 0x53]

/-- The group "PREF 0", of MIN_GROUP_LEN = 8 bytes (RX-5). -/
def prefGroup : Text := [0x50, 0x52, 0x45, 0x46, 0x09, 0x30, 0x09, 0x4F]

/-- The group "IRMS1 +5", of 10 bytes. -/
def plusGroup : Text := [0x49, 0x52, 0x4D, 0x53, 0x31, 0x09, 0x2B, 0x35, 0x09, 0x3E]

/-- A NOP latched. -/
def nopState : State := { fresh vec with phase := .exec .nop }

theorem test_witness_DecodeEncodeRoundTrip :
    (Instr.tcfg .wdog true false).wellFormed 5 = true ∧ (Instr.tcfg (.other 10) true false).wellFormed 16 = true ∧
    (Instr.tcfg .wdog true false).wellFormed Config.params.nTimers = true := by decide

theorem test_witness_StepRunsDecodedCommand :
    decode vec.nTimers 0x4712340A#32 = .ok (.rxbyte 0x0A) ∧ (fresh vec).phase = .ready ∧ (fresh vec).turns = [] ∧
    { fresh vec with turns := [.env (.hostWrite 0x4008 32 0x4712340A#32), .block] }.turns =
      [.env (.hostWrite (vec.base + 0x08) 32 0x4712340A#32), .block] ∧
    nopState.phase.command = some .nop ∧ nopState.turns = [] ∧
    { nopState with turns := [.block, .env .reset] }.turns = [.block, .env .reset] := by decide

theorem test_witness_CommandSubmission :
    nopState.phase ≠ .ready ∧ (fresh vec).phase = .ready ∧ illegalWord vec.nTimers 0xB0000000 ∧
    illegalWord vec.nTimers 0x55000000 ∧ illegalWord vec.nTimers 0x9F000000 ∧ ¬illegalWord vec.nTimers 0xAFFFFFFF ∧
    ¬illegalWord vec.nTimers 0x94000000 ∧ ¬illegalWord vec.nTimers 0x1F000000 ∧ ¬illegalWord vec.nTimers 0x30000000 := by
  unfold illegalWord
  decide

theorem test_witness_NopOnlyReturnsToReady :
    (0x0FFFFFFF#32).toNat / 2 ^ 28 = 0 ∧
    { fresh vec with turns := [.env (.hostWrite 0x4008 32 0x00000000#32)] }.phase = .ready := by decide

theorem test_witness_PollDecodesThenPollsTimers :
    Invariant { pendingState vec irmsText with phase := .pollDec } ∧ Invariant { fresh vec with phase := .pollDec } ∧
    { fresh vec with phase := .pollTmr .wdog }.phase = .pollTmr .wdog ∧ vec.nTimers ≤ TimerId.wdog.index + 1 ∧
    (TimerId.other 0).index = TimerId.wdog.index + 1 ∧ (TimerId.other 0).index < six.nTimers :=
  ⟨test_meetsInvariant_sound (by decide), test_meetsInvariant_sound (by decide), rfl, by decide, rfl, by decide⟩

theorem test_witness_FeedStepTakesOneByte :
    (fresh vec).rxq = [] ∧ Invariant { fresh vec with phase := .feedLoop, rxq := [0x0A, 0x41] } ∧
    Invariant { fresh vec with phase := .pollFeed, rxq := [0x02] } :=
  ⟨rfl, test_meetsInvariant_sound (by decide), test_meetsInvariant_sound (by decide)⟩

theorem test_witness_MicrostepCounts :
    Invariant nopState ∧ nopState.turns = [] ∧ Invariant { fresh six with phase := .tpa .minp } ∧
    Invariant { fresh vec with phase := .feedLoop, rxq := [0x0A, 0x41] } ∧
    Invariant { pendingState vec irmsText with phase := .pollDec, rxq := [0x0A, 0x41] } ∧
    Invariant { fresh vec with phase := .pollDec } :=
  ⟨test_meetsInvariant_sound (by decide), rfl, test_meetsInvariant_sound (by decide),
   test_meetsInvariant_sound (by decide), test_meetsInvariant_sound (by decide), test_meetsInvariant_sound (by decide)⟩

theorem test_witness_ArriveQueuesOrDrops :
    { fresh vec with rxq := [0x0A] }.rxq.length < vec.rxqDepth ∧
    vec.rxqDepth ≤ { fresh vec with rxq := [0x0A, 0x41] }.rxq.length := by decide

theorem test_witness_TickMovesOnlyTheClock :
    (fresh vec).cfg.wellFormed = true ∧ 1 ≤ 1 ∧ 1 ≤ 4294967295 ∧
    { fresh vec with turns := [.env (.tick 4294967295), .block] }.turns = [.env (.tick 4294967295), .block] := by decide

theorem test_witness_AccessSideEffects :
    (0x04 : Nat) % 4 = 0 ∧ (0x04 : Nat) ≠ 0x00 ∧ (0x04 : Nat) ≠ 0x08 ∧ (0x04 : Nat) ≠ 0x0C ∧ (0x10 : Nat) % 4 = 0 ∧
    (0x10 : Nat) ≠ 0x00 ∧ (0x10 : Nat) ≠ 0x08 ∧ (0x10 : Nat) ≠ 0x0C := by decide

theorem test_witness_RegisterWindow :
    (0x28 : Nat) % 4 = 0 ∧ (0x2C : Nat) % 4 = 0 ∧ 0x3C = 0x3C + 0x10 * TimerId.minp.index ∧
    0x7C = 0x3C + 0x10 * TimerId.wdog.index ∧ TimerId.wdog.index < 5 ∧ 0x80 % 4 = 0 ∧ 0x78 = 0x38 + 0x10 * TimerId.wdog.index ∧
    Invariant (withTimer .minp 4294967295 4294967295 true true (fresh vec)) :=
  ⟨rfl, rfl, rfl, rfl, by decide, rfl, rfl, test_meetsInvariant_sound (by decide)⟩

theorem test_witness_BadAccessRefused :
    ((16 : Nat) ≠ 32 ∨ 0x0C % 4 ≠ 0) ∧ ((32 : Nat) ≠ 32 ∨ 0x0D % 4 ≠ 0) ∧ ((32 : Nat) ≠ 32 ∨ 0x0F % 4 ≠ 0) ∧
    0x3FFF < (fresh vec).cfg.base := by decide

theorem test_witness_ResetValues :
    { inGroup vec irmsText with turns := [.env .reset, .block] }.turns = [.env .reset, .block] := by decide

theorem test_witness_StepKeepsInvariant :
    Invariant (start vec) ∧ Invariant (inGroup small plusGroup) ∧
    Invariant { pendingState vec irmsText with phase := .exec .decode } ∧
    (∃ t, step nopState = .next t) ∧ Invariant nopState :=
  ⟨test_meetsInvariant_sound (by decide), test_meetsInvariant_sound (by decide), test_meetsInvariant_sound (by decide),
   ⟨_, rfl⟩, test_meetsInvariant_sound (by decide)⟩

theorem test_witness_NoStepFaultsOrRefuses : Invariant { inGroup small plusGroup with phase := .exec (.rxbyte 0x0D) } :=
  test_meetsInvariant_sound (by decide)

theorem test_witness_EveryRunFromResetIsSafe :
    vec.wellFormed = true ∧ (4294967295#32).toNat < 2 ^ vec.clockBits ∧ (0#32).toNat < 2 ^ vec.clockBits := by decide

theorem test_witness_ClockMovesOnlyByTick :
    after (fun t => decide (t.now ≠ (fresh vec).now)) (step { fresh vec with turns := [.env (.tick 1)] }) =
      some true := by decide

theorem test_witness_EventsAreAppendOnly :
    after (fun t => decide (t.events ≠ (fresh vec).events))
      (step { fresh vec with turns := [.env (.hostWrite 0x4008 32 0xB0000000)] }) = some true := by decide

theorem test_witness_HealthChangesOnlyByClassification :
    { start vec with phase := .exec (.rxbyte 0x03) }.phase.ok vec.nTimers = true ∧
    after State.healthy (step { start vec with phase := .exec (.rxbyte 0x03), frameStart := 999 }) = some true ∧
    after State.healthy (step { withTimer .wdog 10 1 true true (start vec) with
      healthy := true, phase := .exec (.tpoll .wdog) }) = some false ∧
    after State.healthy (step { start vec with healthy := true, turns := [.env .reset] }) = some false := by decide

theorem test_witness_RecordAndMaskDiscipline :
    { pendingState vec irmsText with phase := .exec .decode }.phase.ok vec.nTimers = true ∧
    after (fun t => (t.record.irms1, t.chg.getLsbD FieldId.irms1.index))
      (step { pendingState vec irmsText with phase := .exec .decode }) = some (5#32, true) ∧
    after (fun t => t.chg.getLsbD FieldId.peak.index) (step { withTimer .minp 10 1 true true (start vec) with
      chg := 0x20000, phase := .exec (.tpoll .minp) }) = some false ∧
    after (fun t => t.chg.getLsbD FieldId.adsc.index) (step { withTimer .maxp 10 1 true true (start vec) with
      chg := 0x1, phase := .exec (.tpoll .maxp) }) = some false := by decide

theorem test_witness_StickyFlagsStay :
    after State.sofSeen (step { fresh vec with turns := [.env .reset] }) = some false ∧
    after State.overrun (step { fresh vec with overrun := true, turns := [.env (.hostWrite 0x4000 32 0x200)] }) =
      some false ∧
    after State.rxqLost (step { fresh vec with rxqLost := true, turns := [.env (.hostWrite 0x4000 32 0x400)] }) =
      some false ∧
    after State.cmdErr (step { fresh vec with cmdErr := true, turns := [.env (.hostWrite 0x4000 32 0x800)] }) =
      some false := by decide

theorem test_witness_DecodeBufferNeverWritten :
    after (fun t => Memory.read t.mem 7) (exec (.rxbyte 0x41) (inGroup small irmsText)) = some (some 0x41#8) ∧
    11 < small.bufCap ∧ EnvAction.arrive 0x41 ≠ .reset ∧
    { fresh vec with turns := [.env (.arrive 0x41)] }.turns = [.env (.arrive 0x41)] := by decide

theorem test_witness_EnergyIndicesNeverFall :
    ¬resetNext { pendingState vec irmsText with phase := .exec .decode } ∧
    ∃ t, step nopState = .next t := by
  refine ⟨?_, _, rfl⟩
  rintro ⟨ts, h⟩
  cases h

theorem test_witness_IdleByte :
    (fresh vec).rxPhase = .idle ∧ vec.sof ≠ vec.eof ∧ vec.sog ≠ vec.eof ∧ vec.sep ≠ vec.eof := by decide

theorem test_witness_EndOfFrameMeasuresAndClassifies :
    Invariant { fresh vec with now := 2099, frameStart := 100 } ∧ Invariant { inGroup vec irmsText with now := 15 } ∧
    ((1999#32).toNat : Int) = ((2099#32).toNat - (100#32).toNat : Int) % (2 ^ vec.clockBits : Int) ∧
    (true = true ↔ (1999#32).toNat < vec.healthThresholdMs) ∧
    (false = true ↔ (2000#32).toNat < vec.healthThresholdMs) ∧
    ((15#32).toNat : Int) = ((15#32).toNat - (0#32).toNat : Int) % (2 ^ vec.clockBits : Int) :=
  ⟨test_meetsInvariant_sound (by decide), test_meetsInvariant_sound (by decide), by decide, by decide, by decide,
   by decide⟩

theorem test_witness_StoreByteOrAbort :
    Invariant (inGroup small irmsGroup) ∧ (inGroup small irmsGroup).rxPhase = .receiving ∧
    (inGroup small irmsGroup).cursor + 1 < small.bufCap - 1 ∧ Invariant (inGroup small plusGroup) ∧
    (inGroup small plusGroup).cursor + 1 = small.bufCap - 1 ∧ small.eof ≠ small.eog ∧ (0x41 : Byte) ≠ small.eof :=
  ⟨test_meetsInvariant_sound (by decide), rfl, by decide, test_meetsInvariant_sound (by decide), by decide, by decide,
   by decide⟩

theorem test_witness_ShortGroupDropped :
    Invariant (inGroup small []) ∧ (inGroup small []).cursor < small.minGroupLen ∧ Invariant (inGroup small irmsText) ∧
    (inGroup small irmsText).cursor + 1 = small.minGroupLen ∧ (inGroup small irmsText).rxPhase = .receiving :=
  ⟨test_meetsInvariant_sound (by decide), by decide, test_meetsInvariant_sound (by decide), by decide, rfl⟩

theorem test_witness_ChecksumFailureDropsGroup :
    Invariant (inGroup small (irmsText ++ [0x09, 0x4B])) ∧ insideGroup (inGroup small (irmsText ++ [0x09, 0x4B]))
      (irmsText ++ [0x09, 0x4B]) ∧ small.minGroupLen ≤ (inGroup small (irmsText ++ [0x09, 0x4B])).cursor ∧
    ¬endsInChecksum small (irmsText ++ [0x09, 0x4B]) :=
  ⟨test_meetsInvariant_sound (by decide), ⟨rfl, rfl, by unfold holdsBytes; decide⟩, by decide,
   by unfold endsInChecksum; decide⟩

theorem test_witness_ValidGroupSwapsBuffers :
    (Invariant (inGroup small prefGroup) ∧ insideGroup (inGroup small prefGroup) prefGroup ∧
      (inGroup small prefGroup).cursor = small.minGroupLen ∧ endsInChecksum small prefGroup) ∧
    Invariant (inGroup small plusGroup) ∧ insideGroup (inGroup small plusGroup) plusGroup ∧
      (inGroup small plusGroup).cursor = small.bufCap - 2 ∧ endsInChecksum small plusGroup :=
  ⟨⟨test_meetsInvariant_sound (by decide), ⟨rfl, rfl, by unfold holdsBytes; decide⟩, by decide,
    by unfold endsInChecksum; decide⟩,
   test_meetsInvariant_sound (by decide), ⟨rfl, rfl, by unfold holdsBytes; decide⟩, by decide,
   by unfold endsInChecksum; decide⟩

theorem test_witness_GroupAcceptedExactlyWhenValid :
    Invariant (fresh small) ∧ (fresh small).rxPhase = .idle ∧ (fresh small).sofSeen = true ∧ small.eog ∉ plusGroup ∧
    small.sog ∉ plusGroup.drop (small.bufCap - 1) ∧
    (small.minGroupLen ≤ plusGroup.length ∧ plusGroup.length = small.bufCap - 2 ∧ endsInChecksum small plusGroup) ∧
    small.eog ∉ irmsText ∧ irmsText.length < small.minGroupLen ∧
    small.eog ∉ plusGroup ++ [0x0A] ∧ small.sog ∉ (plusGroup ++ [0x0A]).drop (small.bufCap - 1) ∧
    small.bufCap - 1 = (plusGroup ++ [0x0A]).length :=
  ⟨test_meetsInvariant_sound (by decide), rfl, rfl, by decide, by decide, by unfold endsInChecksum; decide, by decide,
   by decide, by decide, by decide, by decide⟩

theorem test_witness_RxbyteCompletes :
    Invariant (inGroup small plusGroup) ∧ (inGroup small plusGroup).rxPhase = .receiving ∧ small.sof ≠ small.eof ∧
    Invariant (fresh small) ∧ (0x41 : Byte) ≠ small.sof :=
  ⟨test_meetsInvariant_sound (by decide), rfl, by decide, test_meetsInvariant_sound (by decide), by decide⟩

theorem test_witness_DecodeCompletes : (fresh vec).decPending = false ∧ Invariant (pendingState vec irmsText) :=
  ⟨rfl, test_meetsInvariant_sound (by decide)⟩

/-- A buffer holds the string put there. -/
theorem test_pendingGroup_of {cfg : Params} {str : Text} (h : str.length < cfg.bufCap) (h0 : (0x00#8 ∉ str))
    (hb : ∀ i (hi : i < str.length), cell (pendingState cfg str) .a i = some str[i])
    (he : cell (pendingState cfg str) .a str.length = some 0x00#8) : pendingGroup (pendingState cfg str) str :=
  ⟨rfl, h, hb, h0, he⟩

/-- "FOO 123". -/
def fooText : Text := [0x46, 0x4F, 0x4F, 0x09, 0x31, 0x32, 0x33]

theorem test_witness_UnknownTagCountedAndReported :
    vec.wellFormed = true ∧ pendingGroup (pendingState vec fooText) fooText ∧
    (tokenize vec.sep fooText).tag ∉ vec.tagNames :=
  ⟨by decide, test_pendingGroup_of (by decide) (by decide) (by decide) (by decide), by decide⟩

/-- "IRMS1 0". -/
def zeroText : Text := [0x49, 0x52, 0x4D, 0x53, 0x31, 0x09, 0x30]

theorem test_witness_RejectedValueOnlyLogged :
    pendingGroup (pendingState vec zeroText) zeroText ∧ isTagOf vec (tokenize vec.sep zeroText).tag .irms1 ∧
    validate vec (pendingState vec zeroText).record .irms1 (tokenize vec.sep zeroText).t1
      (tokenize vec.sep zeroText).t2 = none ∧
    { vec with logRejects := false }.wellFormed = true :=
  ⟨test_pendingGroup_of (by decide) (by decide) (by decide) (by decide), by unfold isTagOf; decide, by decide,
   by decide⟩

theorem test_witness_AcceptedValueUpdatesSlot :
    pendingGroup (pendingState vec irmsText) irmsText ∧ isTagOf vec (tokenize vec.sep irmsText).tag .irms1 ∧
    validate vec Record.atReset .irms1 (tokenize vec.sep irmsText).t1 (tokenize vec.sep irmsText).t2 =
      some (.u32 5) ∧
    Value.u32 5 ≠ Record.atReset.value .irms1 ∧ FieldId.irms1 ≠ .ltarf ∧
    Value.u32 5 = { Record.atReset with irms1 := 5 }.value .irms1 :=
  ⟨test_pendingGroup_of (by decide) (by decide) (by decide) (by decide), by unfold isTagOf; decide, by decide,
   by decide, by decide, by decide⟩

/-- "LTARF HEURE PLEINE". -/
def peakGroupText : Text := [0x4C, 0x54, 0x41, 0x52, 0x46, 0x09] ++ peakText

/-- "LTARF HEURE CREUSE". -/
def offpeakGroupText : Text := [0x4C, 0x54, 0x41, 0x52, 0x46, 0x09] ++ offpeakText

theorem test_witness_TariffPeriodFlipsPeak :
    (pendingGroup (pendingState vec peakGroupText) peakGroupText ∧
      isTagOf vec (tokenize vec.sep peakGroupText).tag .ltarf ∧ (tokenize vec.sep peakGroupText).t1 = vec.litPeak ∧
      (tokenize vec.sep peakGroupText).t1 ≠ Record.atReset.ltarf ∧ true ≠ Record.atReset.peak) ∧
    pendingGroup (pendingState vec offpeakGroupText) offpeakGroupText ∧
      isTagOf vec (tokenize vec.sep offpeakGroupText).tag .ltarf ∧
      (tokenize vec.sep offpeakGroupText).t1 = vec.litOffpeak ∧
      (tokenize vec.sep offpeakGroupText).t1 ≠ Record.atReset.ltarf ∧ false = Record.atReset.peak ∧
      (false = true ↔ (tokenize vec.sep offpeakGroupText).t1 = vec.litPeak) :=
  ⟨⟨test_pendingGroup_of (by decide) (by decide) (by decide) (by decide), by unfold isTagOf; decide, by decide,
    by decide, by decide⟩,
   test_pendingGroup_of (by decide) (by decide) (by decide) (by decide), by unfold isTagOf; decide, by decide,
   by decide, by decide, by decide⟩

theorem test_witness_TagMatchesByteForByte : small.wellFormed = true := by decide

theorem test_witness_NumberFieldsValidated :
    FieldId.smaxsn = .smaxsn ∨ FieldId.smaxsn = .smaxsn1 ∨ FieldId.smaxsn = .ccasn ∨ FieldId.smaxsn = .ccasn1 := by
  decide

theorem test_witness_SameGroupTwiceChangesNothing :
    vec.wellFormed = true ∧ pendingGroup (pendingState vec irmsText) irmsText ∧
    after State.chg (exec .decode (pendingState vec irmsText)) = some 0x80#18 :=
  ⟨by decide, test_pendingGroup_of (by decide) (by decide) (by decide) (by decide), by decide⟩

theorem test_witness_DecodeChangesAtMostOneWireField :
    after (fun t => (t.record.value .adsc, t.record.peak)) (exec .decode (pendingState vec irmsText)) =
      some (.text [], false) ∧ FieldId.adsc ≠ .irms1 ∧ FieldId.adsc ≠ .peak ∧
    after (fun t => (t.record.peak, t.chg.getLsbD 17)) (exec .decode (pendingState vec peakGroupText)) =
      some (true, true) := by decide

theorem test_witness_TcfgConfiguresOneSlot :
    (fresh { vec with clockBits := 14 }).cfg.wellFormed = true ∧ (fresh vec).tmr.has .wdog ∧
    (fresh six).cfg.wellFormed = true ∧ (fresh six).tmr.has (.other 0) := by decide

theorem test_witness_TrestartAndTstopSetTheStart : (fresh vec).tmr.has .minp ∧ (fresh vec).tmr.has .wdog := by decide

theorem test_witness_TstartChecksThenArms :
    (timer (fresh vec) .minp).delay = 0 ∧
    ((timer (withTimer .blnk 150 100 false true (fresh vec)) .blnk).delay ≠ 0 ∧
      (timer (withTimer .blnk 150 100 false true (fresh vec)) .blnk).start ≠ 0) ∧
    (timer (fresh vec) .wdog).delay ≠ 0 ∧ (timer (fresh vec) .wdog).start = 0 := by decide

/-- Timer `t` with delay 150, started at 100, at clock value `v`. -/
def running (t : TimerId) (cben : Bool) (v : Word) : State :=
  { withTimer t 150 100 true cben (fresh vec) with now := v }

theorem test_witness_TpollFiresOnlyWhenDue :
    vec.wellFormed = true ∧ ¬isDue (running .blnk false 250) .blnk ∧ isDue (running .blnk false 251) .blnk ∧
    (timer (running .blnk false 251) .blnk).cben = false ∧ ¬isDue (fresh vec) .blnk := by
  unfold isDue
  decide

theorem test_witness_TpollallPollsEverySlotInOrder :
    { fresh vec with phase := .tpa .minp }.phase = .tpa .minp ∧ { fresh vec with phase := .tpa .minp }.turns = [] ∧
    vec.nTimers = 5 ∧ TimerId.maxp.index = TimerId.minp.index + 1 ∧ TimerId.maxp.index < vec.nTimers ∧
    vec.nTimers ≤ TimerId.wdog.index + 1 := by
  decide

theorem test_witness_ElapsedTimeAcrossWrap :
    (timer (withTimer .minp 20 4294967286 true false (fresh vec)) .minp).start.toNat < 2 ^ vec.clockBits ∧
    4294967295 < 2 ^ vec.clockBits ∧ (11#32) = wadd vec 4294967286 21 ∧ (4294967285#32) = wadd vec 4294967286 4294967295 := by
  decide

theorem test_witness_TimeZeroLeavesTimerStopped :
    { fresh vec with now := 0 }.now = 0 ∧ (timer (fresh vec) .wdog).delay ≠ 0 ∧ (timer (fresh vec) .wdog).start = 0 ∧
    isDue { withTimer .minp 5 4294967290 true false (fresh vec) with now := 0 } .minp ∧
    (timer (withTimer .minp 5 4294967290 true false (fresh vec)) .minp).rep = true ∧
    (timer (withTimer .minp 5 4294967290 true false (fresh vec)) .minp).cben = false := by
  unfold isDue
  decide

theorem test_witness_ReportMinPublishesChangedFields :
    vec.wellFormed = true ∧ isDue (running .minp true 251) .minp ∧ (timer (running .minp true 251) .minp).cben = true := by
  unfold isDue
  decide

theorem test_witness_ReportMaxPublishesEveryField :
    isDue (running .maxp true 251) .maxp ∧ (timer (running .maxp true 251) .maxp).cben = true := by
  unfold isDue
  decide

theorem test_witness_BlinkTimersDriveTheHealthLed :
    isDue (running .stat true 251) .stat ∧ (timer (running .stat true 251) .stat).cben = true ∧
    isDue (running .blnk true 251) .blnk ∧ (timer (running .blnk true 251) .blnk).cben = true := by
  unfold isDue
  decide

theorem test_witness_WatchdogForcesDegraded :
    isDue (running .wdog true 251) .wdog ∧ (timer (running .wdog true 251) .wdog).cben = true ∧
    (running .wdog true 251).healthy = false ∧ { running .wdog true 251 with healthy := true }.healthy = true := by
  unfold isDue
  decide

end Sys2Proof.Tests
end

/-! Proofs of the family 10_state. This part: each operation of the block completes from a state of the invariant and keeps
it; O19 and O18 follow. -/

namespace Sys2Proof.Machine

/-! ### The invariant and the named updates -/

/-- The five slots that 10_state R46 binds are slots of the bank. -/
theorem Invariant.five_le {s : State} (h : Invariant s) : 5 ≤ s.cfg.nTimers := (params_facts h.params).slots

theorem Invariant.setPhase {s : State} {p : Phase} (h : Invariant s) (hp : p.ok s.cfg.nTimers = true) :
    Invariant (setPhase p s) :=
  { h with phase := hp }

theorem Invariant.setReady {s : State} (h : Invariant s) : Invariant (Machine.setPhase .ready s) := h.setPhase rfl

theorem Invariant.emit {s : State} (h : Invariant s) (e : Event) : Invariant (emit e s) := { h with }

theorem Invariant.setTimer {s : State} (h : Invariant s) (t : TimerId) {x : SoftTimer} (hx : timerValues s.cfg x) :
    Invariant (setTimer t x s) :=
  { h with
    timers := fun u => by
      show timerValues s.cfg ((s.tmr.set t x).get u)
      rw [get_set]
      split_ifs
      · exact hx
      · exact h.timers u
    slots := by simpa using h.slots }

theorem Invariant.tConfigure {s : State} (h : Invariant s) (t : TimerId) {d : Word} (rep cben : Bool)
    (hd : clockValue s.cfg d) : Invariant (tConfigure t d rep cben s) :=
  h.setTimer t ⟨hd, (h.timers t).2⟩

theorem Invariant.tSetDelay {s : State} (h : Invariant s) (t : TimerId) {d : Word} (hd : clockValue s.cfg d) :
    Invariant (tSetDelay t d s) :=
  h.setTimer t ⟨hd, (h.timers t).2⟩

theorem Invariant.setStart {s : State} (h : Invariant s) (t : TimerId) {v : Word} (hv : clockValue s.cfg v) :
    Invariant (setStart t v s) :=
  h.setTimer t ⟨(h.timers t).1, hv⟩

theorem Invariant.tRestart {s : State} (h : Invariant s) (t : TimerId) : Invariant (tRestart t s) := h.setStart t h.now

theorem Invariant.tStop {s : State} (h : Invariant s) (t : TimerId) : Invariant (tStop t s) :=
  h.setStart t (clockValue_zero _)

theorem Invariant.setLed {s : State} (h : Invariant s) (pin : Pin) (level : Bool) : Invariant (setLed pin level s) := by
  cases pin <;> exact { h with }

/-- A write into the receive buffer: the group under way and the pending group's string in the other buffer stay. -/
theorem Invariant.putReceive {s : State} (h : Invariant s) {i : Nat} (v : Byte) (hi : i < s.cfg.bufCap) :
    Invariant (putCell s.rxSel i v s) :=
  { h with
    stored := fun hr j hj => cell_putCell_isSome v (h.stored hr j hj)
    pending := fun hd => by
      obtain ⟨n, hn, hz, hw⟩ := h.pending hd
      have hc : ∀ j, j < s.cfg.bufCap → cell (putCell s.rxSel i v s) s.rxSel.other j = cell s s.rxSel.other j :=
        fun j hj => cell_putCell_other s v hi hj (.inl (other_ne _))
      refine ⟨n, hn, ?_, fun j hj => ?_⟩
      · exact (hc n (by omega)).trans hz
      · exact (congrArg Option.isSome (hc j (by omega))).trans (hw j hj)
    canonical := wf_write _ _ _ h.canonical
    extent := fun c hc => (mem_write hc).elim (fun he => he ▸ cellAddr_lt s.cfg s.rxSel hi) (h.extent c) }

/-! ### Classification and the receiver -/

theorem Invariant.changeClass {s : State} (h : Invariant s) (c : Bool) : Invariant (changeClass c s) := by
  have hs : Invariant { s with healthy := c } := { h with }
  have hd : clockValue s.cfg (if c then s.cfg.blinkSlowMs else s.cfg.blinkFastMs) := by
    split_ifs
    · exact (params_facts h.params).slow
    · exact (params_facts h.params).fast
  exact (hs.tSetDelay .stat hd).tRestart .stat

theorem Invariant.classify {s : State} (h : Invariant s) (c : Bool) : Invariant (classify c s) := by
  have hs : Invariant (if c ≠ s.healthy then Machine.changeClass c s else s) := by
    split_ifs
    · exact h.changeClass c
    · exact h
  unfold Machine.classify
  cases c
  · exact hs.tStop .wdog
  · exact hs.tRestart .wdog

theorem Invariant.frameEnd {s : State} (h : Invariant s) : Invariant (frameEnd s) := by
  have hs : Invariant { s with lastDur := frameDuration s } := { h with lastDur := wsub_lt .. }
  exact hs.classify _

theorem Invariant.idleByte {s : State} (h : Invariant s) (b : Byte) : Invariant (idleByte b s) := by
  unfold Machine.idleByte
  split_ifs with h1 h2
  · exact { h with frameStart := h.now, armed := fun _ => rfl }
  · exact { h with
      cursor := Nat.zero_le _
      idle := fun _ => rfl
      armed := fun _ => h2.2
      stored := fun _ i hi => absurd hi (Nat.not_lt_zero i) }
  · exact h

/-- The end of a group, however it ended: the receiver goes back to IDLE with the cursor at 0. -/
theorem Invariant.endGroup {s : State} (h : Invariant s) : Invariant { s with cursor := 0, rxPhase := .idle } :=
  { h with
    cursor := Nat.zero_le _
    idle := fun _ => rfl
    armed := fun hr => nomatch hr
    stored := fun hr => nomatch hr }

/-- STORE keeps the invariant (40_receiver R163, R164): the cell under the old cursor is written before the cursor moves on,
and at `BUF_CAP - 1` the group is aborted. -/
theorem Invariant.storeByte_completes {s : State} (h : Invariant s) (b : Byte) (hr : s.rxPhase = .receiving) :
    ∃ t, storeByte b s = .ok t ∧ Invariant t := by
  have hcap := (params_facts h.params).bufCap
  have hcur := h.cursor
  have hlt : s.cursor < s.cfg.bufCap := by omega
  have hp := h.putReceive b hlt
  refine ⟨_, storeByte_eq b hlt, ?_⟩
  unfold advanceCursor
  split_ifs with he
  · exact (hp.emit .logOverflow).endGroup
  · refine { hp with
      cursor := ?_
      idle := fun hi => nomatch hr.symm.trans hi
      stored := fun _ i hi => ?_ }
    · show s.cursor + 1 ≤ s.cfg.bufCap - 2
      change ¬s.cursor + 1 = s.cfg.bufCap - 1 at he
      omega
    · rcases Nat.lt_succ_iff_lt_or_eq.mp hi with hi | rfl
      · exact hp.stored hr i hi
      · exact congrArg Option.isSome (cell_putCell_same s s.rxSel s.cursor b)

/-- The swap of roles keeps the invariant when the group just received left a string in its buffer (40_receiver R166). -/
theorem Invariant.swapRoles {s : State} (h : Invariant s) (hs : holdsString s s.rxSel) :
    Invariant (toIdle (swapRoles s)) :=
  { h.endGroup with
    stored := fun hr => nomatch hr
    pending := fun _ => by
      show holdsString s s.rxSel.other.other
      rwa [other_other] }

/-- COMPLETE keeps the invariant, whether the group is short, fails its checksum or is accepted (40_receiver R165 to
R169). -/
theorem Invariant.complete_completes {s : State} (h : Invariant s) (hr : s.rxPhase = .receiving) :
    ∃ t, complete s = .ok t ∧ Invariant t := by
  obtain ⟨g, hg, hb⟩ := exists_bytes s s.rxSel s.cursor (h.stored hr)
  have hp := params_facts h.params
  have hcap := hp.bufCap
  have hmin := hp.minGroup
  have hcur := h.cursor
  have h1 := h.putReceive 0x00#8 (show s.cursor < s.cfg.bufCap by omega)
  refine ⟨_, complete_eq hg hb hcur hcap hmin, ?_⟩
  split_ifs with hshort hck
  · exact (h1.emit _).endGroup
  · have h2 := h1.putReceive 0x00#8 (show s.cursor - 2 < s.cfg.bufCap by omega)
    refine h2.swapRoles ⟨s.cursor - 2, ?_, cell_putCell_same .., fun i hi => h2.stored hr i ?_⟩
    · show s.cursor - 2 < s.cfg.bufCap - 3
      omega
    · exact hi.trans_le (Nat.sub_le _ _)
  · exact (h1.emit _).endGroup

theorem Invariant.phaseByte_completes {s : State} (h : Invariant s) (b : Byte) :
    ∃ t, phaseByte b s = .ok t ∧ Invariant t := by
  unfold Machine.phaseByte
  cases hr : s.rxPhase with
  | idle => exact ⟨_, rfl, h.idleByte b⟩
  | receiving =>
    dsimp only
    split_ifs
    · exact h.complete_completes hr
    · exact h.storeByte_completes b hr

/-- RXSTEP completes and keeps the invariant (40_receiver R160, R170). -/
theorem Invariant.rxStep_completes {s : State} (h : Invariant s) (b : Byte) :
    ∃ t, rxStep b s = .ok t ∧ Invariant t := by
  unfold Machine.rxStep
  split_ifs
  · exact h.frameEnd.phaseByte_completes b
  · exact h.phaseByte_completes b

/-- FEEDSTEP completes and keeps the invariant (40_receiver R173). -/
theorem Invariant.feedStep_completes {s : State} (h : Invariant s) {loop next : Phase}
    (hl : loop.ok s.cfg.nTimers = true) (hn : next.ok s.cfg.nTimers = true) : ∃ t, feedStep loop next s = .ok t ∧ Invariant t := by
  unfold Machine.feedStep
  cases hq : s.rxq with
  | nil => exact ⟨_, rfl, h.setPhase hn⟩
  | cons b q =>
    have hs : Invariant { s with rxq := q } :=
      { h with queue := (Nat.le_succ _).trans (by simpa [hq] using h.queue) }
    obtain ⟨t, ht, hi⟩ := hs.rxStep_completes b
    refine ⟨Machine.setPhase loop t, by simp only [ht, Except.map], hi.setPhase ?_⟩
    rwa [(rxStep_keeps ht).cfg]

/-! ### The decoder -/

/-- The texts of the record stay within `n` bytes when a slot takes a value that does (41_decoder R219, R220). -/
theorem updateSlot_fits {f : FieldId} {v : Value} {s : State} {n : Nat} (hr : ∀ g, (s.record.value g).fits n)
    (hv : v.fits n) (g : FieldId) : ((updateSlot f v s).record.value g).fits n := by
  rcases updateSlot_cases f v s with ⟨-, he⟩ | ⟨-, -, he⟩ | ⟨-, -, -, p, -, he⟩
  · rw [he]
    exact hr g
  · rw [he]
    exact fits_put f hr hv g
  · rw [he]
    exact fits_put .peak (v := .bool p) (fits_put f hr hv) trivial g

/-- Decoding a group's string keeps the texts of the record within its length, where they are (10_state R42). -/
theorem decodeText_fits {str : Text} {s : State} {n : Nat} (hr : ∀ g, (s.record.value g).fits n) (hn : str.length ≤ n)
    (g : FieldId) : ((decodeText str s).record.value g).fits n := by
  obtain ⟨-, h1, h2⟩ := tokenize_length s.cfg.sep str
  unfold decodeText
  split
  · unfold decodeField
    split
    case h_1 v hv => exact updateSlot_fits hr (validate_fits hv (h1.trans hn) fun t ht => (h2 t ht).trans hn) g
    case h_2 =>
      unfold rejectField
      split_ifs <;> exact hr g
  · exact hr g

/-- A state that differs from one of the invariant in what a decode may change alone meets it, if its texts fit and no group
is left pending. -/
theorem Invariant.of_decodeKeeps {s t : State} (h : Invariant s) (k : DecodeKeeps s t) (hd : t.decPending = false)
    (ht : ∀ f, (t.record.value f).fits (t.cfg.bufCap - 4)) : Invariant t where
  params := k.cfg ▸ h.params
  phase := k.cfg ▸ k.phase ▸ h.phase
  cursor := k.cfg ▸ k.cursor ▸ h.cursor
  idle := k.rxPhase ▸ k.cursor ▸ h.idle
  armed := k.rxPhase ▸ k.sofSeen ▸ h.armed
  stored := by
    unfold cell
    rw [k.rxPhase, k.cursor, k.mem, k.cfg, k.rxSel]
    exact h.stored
  pending := fun hp => nomatch hd.symm.trans hp
  canonical := k.mem ▸ h.canonical
  extent := k.mem ▸ k.cfg ▸ h.extent
  queue := k.rxq ▸ k.cfg ▸ h.queue
  texts := ht
  now := k.cfg ▸ k.now ▸ h.now
  frameStart := k.cfg ▸ k.frameStart ▸ h.frameStart
  lastDur := k.cfg ▸ k.lastDur ▸ h.lastDur
  timers := by
    unfold timer
    rw [k.tmr, k.cfg]
    exact h.timers
  slots := k.tmr ▸ k.cfg ▸ h.slots

/-- A buffer that holds a string can be read as one, and the string ends below `BUF_CAP - 3` (41_decoder R200). -/
theorem cstr_of_holdsString {s : State} {k : BufId} (h : holdsString s k) :
    ∃ str, str.length ≤ s.cfg.bufCap - 4 ∧ cstr s k = .ok str := by
  obtain ⟨n, hn, hz, hw⟩ := h
  obtain ⟨str, hl, hs⟩ := exists_cstr hz hw
  exact ⟨str, by omega, cstr_of_holds hs (by omega)⟩

/-- DECODE_OP completes and keeps the invariant (41_decoder R200). -/
theorem Invariant.decodeOp_completes {s : State} (h : Invariant s) : ∃ t, decodeOp s = .ok t ∧ Invariant t := by
  cases hd : s.decPending with
  | false => exact ⟨s, by simp [Machine.decodeOp, hd], h⟩
  | true =>
    obtain ⟨str, hl, hc⟩ := cstr_of_holdsString (h.pending hd)
    have ht : Machine.decodeOp s = .ok (decodeText str { s with decPending := false }) := by
      simp [Machine.decodeOp, hd, hc, Except.map]
    refine ⟨_, ht, h.of_decodeKeeps (decodeOp_keeps ht) (decodeOp_decPending ht) fun f => ?_⟩
    rw [(decodeOp_keeps ht).cfg]
    exact decodeText_fits (s := { s with decPending := false }) h.texts hl f

/-! ### The timers -/

theorem Invariant.callback {s : State} (h : Invariant s) (t : TimerId) : Invariant (callback t s) := by
  cases t with
  | minp => exact { h with }
  | maxp => exact { h with }
  | stat => exact (h.setLed .health true).tRestart .blnk
  | blnk => exact h.setLed .health false
  | wdog => exact h.classify false
  | other k => exact h

/-- T_POLL keeps the invariant (42_softtimer R261). -/
theorem Invariant.tPoll {s : State} (h : Invariant s) (t : TimerId) : Invariant (tPoll t s) := by
  have hv : clockValue s.cfg (startAfterFiring s t) := by
    unfold startAfterFiring
    split_ifs
    · exact h.now
    · exact clockValue_zero _
  rw [tPoll_eq]
  split_ifs
  · exact (h.setStart t hv).callback t
  · exact h.setStart t hv
  · exact h

theorem Invariant.tStart {s : State} (h : Invariant s) (t : TimerId) : Invariant (tStart t s) := by
  unfold Machine.tStart
  split_ifs
  · exact h.emit _
  · exact h.emit _
  · exact h.setStart t h.now

/-- The microstep that polls one timer of a sequence keeps the invariant: the slot it goes on to is one of the bank. -/
theorem Invariant.pollTimerStep {s : State} (h : Invariant s) {toPhase : TimerId → Phase} (t : TimerId)
    (hp : ∀ u : TimerId, u.index < s.cfg.nTimers → (toPhase u).ok s.cfg.nTimers = true) :
    Invariant (pollTimerStep toPhase t s) := by
  refine (h.tPoll t).setPhase ?_
  rw [(tPoll_keeps t s).cfg, TimerId.next]
  split_ifs with hn
  · exact hp _ (by rwa [index_ofIndex])
  · rfl

/-! ### The block's microstep -/

/-- The outcome of a computation that answers, with a last change of the state. -/
theorem outcomeOf_map {x : Except Fault State} {t : State} {f : State → State} (h : x = .ok t) :
    outcomeOf (x.map f) = .next (f t) := by
  rw [h]
  rfl

/-- A latched command done in one microstep completes and keeps the invariant. -/
theorem Invariant.exec_completes {s : State} (h : Invariant s) {c : Instr} (hc : c.isSingleStep = true) :
    ∃ t, exec c s = .next t ∧ Invariant t := by
  cases c with
  | nop => exact ⟨_, rfl, h.setReady⟩
  | decode =>
    obtain ⟨t, ht, hi⟩ := h.decodeOp_completes
    exact ⟨_, outcomeOf_map ht, hi.setReady⟩
  | rxbyte b =>
    obtain ⟨t, ht, hi⟩ := h.rxStep_completes b
    exact ⟨_, outcomeOf_map ht, hi.setReady⟩
  | tcfg t rep cben => exact ⟨_, rfl, (h.tConfigure t rep cben (clockOf_lt ..)).setReady⟩
  | tstart t => exact ⟨_, rfl, (h.tStart t).setReady⟩
  | trestart t => exact ⟨_, rfl, (h.tRestart t).setReady⟩
  | tstop t => exact ⟨_, rfl, (h.tStop t).setReady⟩
  | tpoll t => exact ⟨_, rfl, (h.tPoll t).setReady⟩
  | poll => cases hc
  | feed => cases hc
  | tpollall => cases hc

/-- The block's microstep completes and keeps the invariant, in every phase (45_control R321). -/
theorem Invariant.microstep_completes {s : State} (h : Invariant s) : ∃ t, microstep s = .next t ∧ Invariant t := by
  have hok := h.phase
  unfold Machine.microstep
  cases hp : s.phase with
  | ready => exact ⟨s, rfl, h⟩
  | exec c =>
    rw [hp, Phase.ok, Bool.and_eq_true] at hok
    exact h.exec_completes hok.1
  | pollDec =>
    obtain ⟨t, ht, hi⟩ := h.decodeOp_completes
    exact ⟨Machine.setPhase .pollFeed t, by simp [Phase.command, exec, execPoll, hp, pollDecode, outcomeOf_map ht],
      hi.setPhase rfl⟩
  | pollFeed =>
    obtain ⟨t, ht, hi⟩ := h.feedStep_completes (loop := .pollFeed) (next := .pollTmr .minp) rfl
      (decide_eq_true (Nat.lt_of_lt_of_le (by decide) h.five_le))
    exact ⟨t, by simp [Phase.command, exec, execPoll, hp, outcomeOf_next, ht], hi⟩
  | pollTmr t =>
    exact ⟨Machine.pollTimerStep .pollTmr t s, by simp [Phase.command, exec, execPoll, hp],
      h.pollTimerStep t fun _ hu => decide_eq_true hu⟩
  | feedLoop =>
    obtain ⟨t, ht, hi⟩ := h.feedStep_completes (loop := .feedLoop) (next := .ready) rfl rfl
    exact ⟨t, outcomeOf_next.mpr ht, hi⟩
  | tpa t => exact ⟨_, rfl, h.pollTimerStep _ fun _ hu => decide_eq_true hu⟩

/-! ### The environment -/

/-- The offset of a register (10_state R50). -/
def Reg.offset : Reg → Nat
  | .status => 0x00
  | .chgmask => 0x04
  | .cmd => 0x08
  | .data => 0x0C
  | .now => 0x10
  | .fstart => 0x14
  | .lastdur => 0x18
  | .unkcnt => 0x1C
  | .rxqcnt => 0x20
  | .rxcur => 0x24
  | .tdelay t => 0x30 + 0x10 * t.index
  | .tstart t => 0x34 + 0x10 * t.index
  | .tmode t => 0x38 + 0x10 * t.index

/-- A register stands at its own offset alone (10_state R50). -/
theorem eq_offset_of_regAt {off : Nat} {r : Reg} (h : regAt off = some r) : off = r.offset := by
  unfold regAt at h
  split at h <;> cases h <;> rfl

/-- No register stands above the five slots' registers (10_state R50). -/
theorem regAt_beyond {off : Nat} (h : 0x80 ≤ off) : regAt off = none := by
  unfold regAt
  split <;> first | rfl | omega

/-- The phase a legal command word sets is a legal one (45_control R320, 30_encoding R124). -/
theorem acceptPhase_ok {n : Nat} {i : Instr} (h : i.wellFormed n = true) (hn : 0 < n) :
    (acceptPhase i).ok n = true := by
  cases i with
  | tpollall => exact decide_eq_true hn
  | _ => simp_all [acceptPhase, Phase.ok, Instr.isSingleStep, Instr.wellFormed]

theorem Invariant.cmdWrite {s : State} (h : Invariant s) (w : Word) : Invariant (cmdWrite w s) := by
  unfold Machine.cmdWrite submit
  split_ifs
  · exact { h with }
  · split
    · exact h.setPhase (acceptPhase_ok (decode_wellFormed ‹_›) (Nat.lt_of_lt_of_le (by decide) h.five_le))
    · exact { h with }

/-- A host read gives the bus a reply, and that is all it does (45_control R332). -/
theorem hostRead_eq (addr width : Nat) (s : State) : ∃ r, hostRead addr width s = { s with busReply := r } := by
  simp only [hostRead, atOffset, readWindow]
  split_ifs <;> exact ⟨_, rfl⟩

/-- Everything an aligned 32-bit write at an offset can do to the block: STATUS at offset 0, CMD, DATA, or nothing. -/
theorem writeOffset_cases (off : Nat) (v : Word) (s : State) :
    writeOffset off v s = s ∨ (off = 0x00 ∧ writeOffset off v s = writeStatus v s) ∨
      writeOffset off v s = cmdWrite v s ∨ writeOffset off v s = { s with data := v } := by
  unfold writeOffset
  split
  · exact .inr (.inl ⟨eq_offset_of_regAt ‹_›, rfl⟩)
  · exact .inr (.inr (.inl rfl))
  · exact .inr (.inr (.inr rfl))
  · exact .inl rfl

/-- Everything a host write can do (45_control R332): the bus gets a reply, and the block stays as it is, takes a write of
STATUS when the access is the one at BASE, takes a command or takes DATA. -/
theorem hostWrite_cases (addr width : Nat) (v : Word) (s : State) :
    ∃ u r, hostWrite addr width v s = { u with busReply := r } ∧
      (u = s ∨ (addr = s.cfg.base + 0x00 ∧ width = 32 ∧ u = writeStatus v s) ∨ u = cmdWrite v s ∨
        u = { s with data := v }) := by
  by_cases hb : s.cfg.base ≤ addr
  · have he : hostWrite addr width v s = writeWindow (addr - s.cfg.base) width v s := if_pos hb
    rw [he, writeWindow]
    split_ifs with ha
    · simp only [accessOk, Bool.and_eq_true, decide_eq_true_eq] at ha
      exact ⟨_, _, rfl, (writeOffset_cases (addr - s.cfg.base) v s).imp_right
        (Or.imp_left fun ⟨h0, hs⟩ => ⟨by omega, ha.1, hs⟩)⟩
    · exact ⟨s, _, rfl, .inl rfl⟩
  · exact ⟨s, .notMine, if_neg hb, .inl rfl⟩

theorem Invariant.setBusReply {s : State} (h : Invariant s) (r : BusReply) : Invariant { s with busReply := r } :=
  { h with }

theorem Invariant.hostWrite {s : State} (h : Invariant s) (addr width : Nat) (v : Word) :
    Invariant (hostWrite addr width v s) := by
  obtain ⟨u, r, he, hu⟩ := hostWrite_cases addr width v s
  have hi : Invariant u := by
    rcases hu with rfl | ⟨-, -, rfl⟩ | rfl | rfl
    · exact h
    · exact { h with }
    · exact h.cmdWrite v
    · exact { h with }
  exact he ▸ hi.setBusReply r

/-- Every typed value of the record at reset is within any bound. -/
theorem atReset_fits (n : Nat) (f : FieldId) : (Record.atReset.value f).fits n := by
  cases f <;> first | trivial | exact Nat.zero_le n

/-- The bank at reset has clock values alone in it. -/
theorem atReset_timerValues {cfg : Params} (h : cfg.wellFormed = true) (t : TimerId) :
    timerValues cfg ((TimerBank.atReset cfg).get t) := by
  have hp := params_facts h
  have hz := clockValue_zero cfg
  cases t with
  | minp => exact ⟨hz, hz⟩
  | maxp => exact ⟨hz, hz⟩
  | stat => exact ⟨hp.fast, hz⟩
  | blnk => exact ⟨hp.on, hz⟩
  | wdog => exact ⟨hp.wdog, hz⟩
  | other k =>
    have hk : (TimerBank.atReset cfg).get (.other k) = SoftTimer.zero := by
      simp only [TimerBank.atReset, TimerBank.get, List.getD_eq_getElem?_getD, List.getElem?_replicate]
      split_ifs <;> rfl
    rw [hk]
    exact ⟨hz, hz⟩

/-- The reset state meets the invariant, for well-formed parameters and a clock value (10_state R57). -/
theorem initial_invariant {cfg : Params} {now : Word} (h : cfg.wellFormed = true) (hn : clockValue cfg now) :
    Invariant (State.initial cfg now) where
  params := h
  phase := rfl
  cursor := Nat.zero_le _
  idle _ := rfl
  armed hr := nomatch hr
  stored hr := nomatch hr
  pending hd := nomatch hd
  canonical := wf_empty
  extent _ hc := nomatch hc
  queue := Nat.zero_le _
  texts := atReset_fits _
  now := hn
  frameStart := clockValue_zero cfg
  lastDur := clockValue_zero cfg
  timers := atReset_timerValues h
  slots := by
    have := (params_facts h).slots
    simp only [State.initial, TimerBank.atReset, List.length_replicate]
    omega

/-- Every environment step keeps the invariant (45_control R330 to R333). -/
theorem Invariant.envStep {s : State} (h : Invariant s) (a : EnvAction) : Invariant (envStep a s) := by
  cases a with
  | arrive b =>
    simp only [Machine.envStep, arrive]
    split_ifs with hq
    · exact { h with queue := by simpa using hq }
    · exact { h with }
  | tick d => exact { h with now := wadd_lt .. }
  | hostRead addr width =>
    obtain ⟨r, he⟩ := hostRead_eq addr width s
    rw [Machine.envStep, he]
    exact h.setBusReply r
  | hostWrite addr width v => exact h.hostWrite addr width v
  | reset =>
    have hi := initial_invariant h.params h.now
    exact { hi with }

/-! ### The step -/

theorem Invariant.setTurns {s : State} (h : Invariant s) (ts : List Turn) : Invariant { s with turns := ts } := { h with }

/-- From a state of the invariant every step completes, and keeps it (45_control R334, 10_state R56). -/
theorem Invariant.step_completes {s : State} (h : Invariant s) : ∃ t, step s = .next t ∧ Invariant t := by
  unfold Machine.step
  split
  · exact h.microstep_completes
  · exact (h.setTurns _).microstep_completes
  · exact ⟨_, rfl, (h.setTurns _).envStep _⟩

/-- Settles O19: a step from a state of the invariant completes in one that meets it, and it has one outcome. -/
theorem stepKeepsInvariant : Obligations.StepKeepsInvariant := by
  intro s t hs ht
  obtain ⟨u, hu, hi⟩ := hs.step_completes
  cases hu.symm.trans ht
  exact hi

/-- The parameters `State.reset` starts with are well formed, whatever the OPEN ones are (00_scope R9). -/
theorem params_wellFormed : Config.params.wellFormed = true := by
  have hclock : ∀ d, Config.params.fitsClock d = true := fun d => decide_eq_true d.isLt
  have hlit : Config.litPeak ≠ Config.litOffpeak := by
    unfold Config.litOffpeak
    split_ifs with h
    · exact fun he => absurd (congrArg List.length he) (by simp)
    · exact Ne.symm h
  have htags : Config.params.tagNamesOk = true := by decide
  have hctl : Config.params.controlBytesDistinct = true := by decide
  simp only [Params.wellFormed, hclock, htags, hctl, Bool.and_true, Bool.and_eq_true, decide_eq_true_eq]
  simp [Config.params, hlit]

/-- Settles O18: the reset state meets the invariant for any well-formed parameters, and those of `State.reset` are. -/
theorem resetMeetsInvariant : Obligations.ResetMeetsInvariant :=
  initial_invariant params_wellFormed Config.now0.isLt

end Sys2Proof.Machine

/-! This part: the rules of every step that need no invariant (O22, O25, O26), runs from reset (O21), the register window (O14,
O15) and the reset values (O17). -/

namespace Sys2Proof.Machine

/-! ### The clock, the parameters and the flags of the interface -/

/-- What no microstep changes or lowers: the parameters, the clock, the two flags of the interface and the sticky flags of the
receiver. -/
structure MicrostepKeeps (s t : State) : Prop where
  cfg : t.cfg = s.cfg
  now : t.now = s.now
  cmdErr : t.cmdErr = s.cmdErr
  rxqLost : t.rxqLost = s.rxqLost
  sofSeen : s.sofSeen = true → t.sofSeen = true
  overrun : s.overrun = true → t.overrun = true

/-- A byte taken by the receiver, then a change of phase. -/
theorem rxStep_microstepKeeps {b : Byte} {s v : State} (p : Phase) (h : rxStep b s = .ok v) :
    MicrostepKeeps s (setPhase p v) := by
  have k := rxStep_keeps h
  obtain ⟨hsof, hover, -⟩ := rxStep_flags h
  exact ⟨k.cfg, k.now, k.cmdErr, k.rxqLost, hsof, hover⟩

theorem Microstep.keeps {s t : State} (h : Microstep s t) : MicrostepKeeps s t := by
  cases h with
  | phaseOnly p => exact ⟨rfl, rfl, rfl, rfl, id, id⟩
  | byte b v hb hv => exact rxStep_microstepKeeps .ready hv
  | queued b q p v hq hp hv =>
    have k := rxStep_microstepKeeps p hv
    exact ⟨k.cfg, k.now, k.cmdErr, k.rxqLost, k.sofSeen, k.overrun⟩
  | decode p v hp hv =>
    have k := decodeOp_keeps hv
    exact ⟨k.cfg, k.now, k.cmdErr, k.rxqLost, k.sofSeen.trans, k.overrun.trans⟩
  | poll u p hp =>
    have k := tPoll_keeps u s
    exact ⟨k.cfg, k.now, k.cmdErr, k.rxqLost, k.sofSeen.trans, k.overrun.trans⟩
  | slot u x => exact ⟨rfl, rfl, rfl, rfl, id, id⟩
  | misuse u r => exact ⟨rfl, rfl, rfl, rfl, id, id⟩

/-- Every environment step keeps the parameters, and every one but TICK the clock (45_control R331, 70_reset R380). -/
theorem envStep_clock (a : EnvAction) (s : State) :
    (envStep a s).cfg = s.cfg ∧ ((∀ d, a ≠ .tick d) → (envStep a s).now = s.now) := by
  by_cases ha : a = .reset
  · subst ha
    exact ⟨rfl, fun _ => rfl⟩
  · obtain ⟨hcfg, -, -, -, -, -, -, -, hnow⟩ := envStep_keeps s ha
    exact ⟨hcfg, hnow⟩

/-- Settles O22: a microstep keeps the clock and the parameters, and an environment step other than TICK does too. -/
theorem clockMovesOnlyByTick : Obligations.ClockMovesOnlyByTick := by
  intro s t h
  rcases step_cases h with ⟨-, ts, hm⟩ | ⟨a, ts, hts, rfl⟩
  · exact ⟨hm.keeps.cfg, fun hn => absurd hm.keeps.now hn⟩
  · obtain ⟨hcfg, hnow⟩ := envStep_clock a { s with turns := ts }
    refine ⟨hcfg, fun hn => ?_⟩
    by_contra hd
    exact hn (hnow fun d ha => hd ⟨d, ts, ha ▸ hts⟩)

/-- From a state of the invariant any number of steps completes, keeps it, and changes no parameter. -/
theorem Invariant.runSteps_completes {s : State} (h : Invariant s) (n : Nat) :
    ∃ t, runSteps n s = .next t ∧ Invariant t ∧ t.cfg = s.cfg := by
  induction n generalizing s with
  | zero => exact ⟨s, rfl, h, rfl⟩
  | succ n ih =>
    obtain ⟨u, hu, hi⟩ := h.step_completes
    obtain ⟨t, ht, hit, hc⟩ := ih hi
    exact ⟨t, by simp only [Machine.runSteps, hu, ht], hit, hc.trans (clockMovesOnlyByTick s u hu).1⟩

/-- Settles O21: the reset state meets the invariant whatever turns are listed, so every run from it completes in a state of
the invariant. -/
theorem everyRunFromResetIsSafe : Obligations.EveryRunFromResetIsSafe := by
  intro cfg now ts n hcfg hnow
  obtain ⟨t, ht, hi, hc⟩ := ((initial_invariant hcfg hnow).setTurns ts).runSteps_completes n
  replace hc : t.cfg = cfg := hc
  refine ⟨t, ht, hc, hc ▸ hi.cursor, hi.idle, fun hd => ⟨hi.pending hd, ?_⟩, hc ▸ hi.queue, t.chg.isLt⟩
  obtain ⟨str, -, hs⟩ := cstr_of_holdsString (hi.pending hd)
  exact ⟨str, hs⟩

/-- CMD_WRITE sets CMDERR or leaves it, and touches no other flag (45_control R320). -/
theorem cmdWrite_flags (w : Word) (s : State) :
    (s.overrun = true → (cmdWrite w s).overrun = true) ∧ (s.rxqLost = true → (cmdWrite w s).rxqLost = true) ∧
      (s.cmdErr = true → (cmdWrite w s).cmdErr = true) := by
  unfold cmdWrite submit
  split_ifs
  · exact ⟨id, id, fun _ => rfl⟩
  · split
    · exact ⟨id, id, id⟩
    · exact ⟨id, id, fun _ => rfl⟩

/-- An environment step other than RESET lowers a sticky flag only as a write of STATUS (10_state R51). -/
theorem envStep_flags {a : EnvAction} (s : State) (ha : a ≠ .reset) :
    (s.sofSeen = true → (envStep a s).sofSeen = true) ∧
    ((s.overrun = true → (envStep a s).overrun = true) ∧ (s.rxqLost = true → (envStep a s).rxqLost = true) ∧
        (s.cmdErr = true → (envStep a s).cmdErr = true) ∨
      ∃ v, a = .hostWrite (s.cfg.base + 0x00) 32 v ∧ (envStep a s).overrun = (s.overrun && !v.getLsbD 9) ∧
        (envStep a s).rxqLost = (s.rxqLost && !v.getLsbD 10) ∧ (envStep a s).cmdErr = (s.cmdErr && !v.getLsbD 11)) := by
  obtain ⟨-, -, -, hsof, -⟩ := envStep_keeps s ha
  refine ⟨hsof.trans, ?_⟩
  cases a with
  | arrive b =>
    simp only [envStep, arrive]
    split_ifs
    · exact .inl ⟨id, id, id⟩
    · exact .inl ⟨id, fun _ => rfl, id⟩
  | tick d => exact .inl ⟨id, id, id⟩
  | hostRead addr width =>
    obtain ⟨r, he⟩ := hostRead_eq addr width s
    rw [envStep, he]
    exact .inl ⟨id, id, id⟩
  | hostWrite addr width v =>
    obtain ⟨u, r, he, hu⟩ := hostWrite_cases addr width v s
    rw [envStep, he]
    rcases hu with rfl | ⟨rfl, rfl, rfl⟩ | rfl | rfl
    · exact .inl ⟨id, id, id⟩
    · exact .inr ⟨v, rfl, rfl, rfl, rfl⟩
    · exact .inl (cmdWrite_flags v s)
    · exact .inl ⟨id, id, id⟩
  | reset => exact absurd rfl ha

/-- A flag that stood and fell, where what it became is the flag masked by a bit, fell by that bit. -/
theorem bit_of_masked {b c d : Bool} (h : c = (b && !d)) (hb : b = true) (hc : c = false) : d = true := by
  subst hb
  simpa [hc] using h

/-- Settles O26: a microstep lowers none of the flags, and an environment step that does is RESET or a write of STATUS. -/
theorem stickyFlagsStay : Obligations.StickyFlagsStay := by
  intro s t h
  have stood : ∀ {b c : Bool} {P : Prop}, (b = true → c = true) → b = true → c = false → P := fun hk hb hc =>
    nomatch hc.symm.trans (hk hb)
  rcases step_cases h with ⟨-, ts, hm⟩ | ⟨a, ts, hts, rfl⟩
  · have k := hm.keeps
    exact ⟨stood k.sofSeen, stood k.overrun, stood k.rxqLost.trans, stood k.cmdErr.trans⟩
  · by_cases ha : a = .reset
    · have hr : resetNext s := ⟨ts, ha ▸ hts⟩
      exact ⟨fun _ _ => hr, fun _ _ => .inl hr, fun _ _ => .inl hr, fun _ _ => .inl hr⟩
    · obtain ⟨hsof, ⟨hover, hlost, herr⟩ | ⟨v, hv, hover, hlost, herr⟩⟩ := envStep_flags { s with turns := ts } ha
      · exact ⟨stood hsof, stood hover, stood hlost, stood herr⟩
      · have hw : statusWriteNext s v := ⟨ts, hv ▸ hts⟩
        exact ⟨stood hsof, fun hb hc => .inr ⟨v, hw, bit_of_masked hover hb hc⟩,
          fun hb hc => .inr ⟨v, hw, bit_of_masked hlost hb hc⟩, fun hb hc => .inr ⟨v, hw, bit_of_masked herr hb hc⟩⟩

/-! ### The record and the change mask -/

/-- What decoding may do to the record and the mask (10_state R43): a bit newly set belongs to a slot with another value, and no
bit is cleared. -/
structure MarksChanges (s t : State) : Prop where
  newly : ∀ g : FieldId, t.chg.getLsbD g.index = true → s.chg.getLsbD g.index = false →
    t.record.value g ≠ s.record.value g
  stay : ∀ g : FieldId, s.chg.getLsbD g.index = true → t.chg.getLsbD g.index = true

theorem MarksChanges.of_eq {s t : State} (hc : t.chg = s.chg) : MarksChanges s t :=
  ⟨fun _ h1 h0 => absurd (h0.symm.trans (hc ▸ h1)) Bool.false_ne_true, fun _ h => hc ▸ h⟩

/-- UPDATE with a validated value sets the bits of exactly the slots it overwrites with another value (41_decoder R219,
R220). -/
theorem updateSlot_marks {f : FieldId} {v : Value} {s : State} (hv : ∀ r : Record, (r.put f v).value f = v) :
    MarksChanges s (updateSlot f v s) := by
  rcases updateSlot_cases f v s with ⟨hc, -⟩ | ⟨hn, hc, hr⟩ | ⟨hn, rfl, hc, p, hp, hr⟩
  · exact .of_eq hc
  · constructor
    · intro g h1 h0
      simp only [hc, BitVec.getLsbD_or, h0, changeBit_getLsbD, Bool.false_or, decide_eq_true_eq] at h1
      subst h1
      rwa [hr, hv]
    · intro g h
      simp [hc, h]
  · constructor
    · intro g h1 h0
      simp only [hc, BitVec.getLsbD_or, h0, changeBit_getLsbD, Bool.false_or, Bool.or_eq_true, decide_eq_true_eq] at h1
      rcases h1 with rfl | rfl
      · have hl : (updateSlot .ltarf v s).record.value .ltarf = v := by
          rw [hr]
          exact hv s.record
        rwa [hl]
      · have hb : (s.record.put .ltarf v).value .peak = s.record.value .peak := value_put_other _ v (by decide)
        rw [← hb, hr]
        exact fun he => hp (Value.bool.inj he)
    · intro g h
      simp [hc, h]

theorem decodeText_marks (str : Text) (s : State) : MarksChanges s (decodeText str s) := by
  unfold decodeText
  split
  · unfold decodeField
    split
    case h_1 v hv => exact updateSlot_marks fun _ => value_put_of_validate hv
    case h_2 =>
      refine .of_eq ?_
      unfold rejectField
      split_ifs <;> rfl
  · exact .of_eq rfl

/-- DECODE_OP with no group pending does nothing; with one it marks what it changes (41_decoder R200). -/
theorem decodeOp_marks {s t : State} (h : decodeOp s = .ok t) : (s.decPending = false ∧ t = s) ∨
    (s.decPending = true ∧ MarksChanges s t) := by
  unfold decodeOp at h
  split_ifs at h with hd
  · obtain ⟨str, -, rfl⟩ := map_ok h
    have k := decodeText_marks str { s with decPending := false }
    exact .inr ⟨hd, k.newly, k.stay⟩
  · cases h
    exact .inl ⟨by simpa using hd, rfl⟩

/-- What a microstep from a legal phase can do to the record and the change mask: nothing, a decode of a pending group, or the
clearing of the whole mask by a report timer that is due. -/
theorem Microstep.record_cases {s t : State} (hok : s.phase.ok s.cfg.nTimers = true) (h : Microstep s t) :
    (t.record = s.record ∧ t.chg = s.chg) ∨ (runsDecode s ∧ s.decPending = true ∧ MarksChanges s t) ∨
      (t.record = s.record ∧ t.chg = 0 ∧ ((pollsTimer s .minp ∧ isDue s .minp) ∨ (pollsTimer s .maxp ∧ isDue s .maxp))) := by
  have hne : s.phase.ok s.cfg.nTimers ≠ false := by simp [hok]
  cases h with
  | phaseOnly p => exact .inl ⟨rfl, rfl⟩
  | byte b v hb hv => exact .inl ⟨(rxStep_keeps hv).record, (rxStep_keeps hv).chg⟩
  | queued b q p v hq hp hv => exact .inl ⟨(rxStep_keeps hv).record, (rxStep_keeps hv).chg⟩
  | decode p v hp hv =>
    rcases decodeOp_marks hv with ⟨-, rfl⟩ | ⟨hd, k⟩
    · exact .inl ⟨rfl, rfl⟩
    · exact .inr (.inl ⟨hp.resolve_right hne, hd, k.newly, k.stay⟩)
  | poll u p hp =>
    replace hp := hp.resolve_right hne
    have hrec : (tPoll u s).record = s.record := (tPoll_keeps u s).record
    rcases tPoll_chg u s with hc | hc
    · exact .inl ⟨hrec, hc⟩
    · cases hdue : timerDue s u with
      | false => exact .inl (by simp [tPoll_not_due hdue])
      | true =>
        have hd := isDue_of_timerDue hdue
        by_cases hmin : u = .minp
        · exact .inr (.inr ⟨hrec, hc, .inl (hmin ▸ ⟨hp, hd⟩)⟩)
        · by_cases hmax : u = .maxp
          · exact .inr (.inr ⟨hrec, hc, .inr (hmax ▸ ⟨hp, hd⟩)⟩)
          · exact .inl ⟨hrec, (tPoll_other u s).2 hmin hmax⟩
  | slot u x => exact .inl ⟨rfl, rfl⟩
  | misuse u r => exact .inl ⟨rfl, rfl⟩

/-- Settles O25, by the cases of a microstep; of the environment steps RESET alone touches the record or the mask. -/
theorem recordAndMaskDiscipline : Obligations.RecordAndMaskDiscipline := by
  intro s t hok h
  have same : ∀ {b : Bool} {P : Prop}, b = true → b = false → P := fun h1 h0 => nomatch h1.symm.trans h0
  rcases step_cases h with ⟨hb, ts, hm⟩ | ⟨a, ts, hts, rfl⟩
  · rcases Microstep.record_cases (s := { s with turns := ts }) hok hm with ⟨hr, hc⟩ | ⟨hp, hd, k⟩ | ⟨hr, hc, hp⟩
    · exact ⟨fun hn => absurd hr hn, fun f h1 h0 => same (hc ▸ h1) h0, fun f h0 h1 => same h1 (hc ▸ h0)⟩
    · exact ⟨fun _ => .inr ⟨hb, hp, hd⟩, fun f h1 h0 => ⟨hb, hp, hd, k.newly f h1 h0⟩,
        fun f h0 h1 => same (k.stay f h1) h0⟩
    · exact ⟨fun hn => absurd hr hn, fun f h1 _ => by simp [hc] at h1, fun f _ _ => ⟨hc, .inr ⟨hb, hp⟩⟩⟩
  · by_cases ha : a = .reset
    · subst ha
      have hr : resetNext s := ⟨ts, hts⟩
      have hc : (envStep .reset { s with turns := ts }).chg = 0 := rfl
      exact ⟨fun _ => .inl hr, fun f h1 _ => by simp [hc] at h1, fun f _ _ => ⟨hc, .inl hr⟩⟩
    · obtain ⟨-, -, -, -, -, hr, hc, -⟩ := envStep_keeps { s with turns := ts } ha
      exact ⟨fun hn => absurd hr hn, fun f h1 h0 => same (hc ▸ h1) h0, fun f h0 h1 => same h1 (hc ▸ h0)⟩

/-! ### The register window -/

/-- A write is ignored at every offset but those of STATUS, CMD and DATA (10_state R50, 45_control R332). -/
theorem writeOffset_ignored {off : Nat} (v : Word) (s : State) (h0 : off ≠ 0x00) (h8 : off ≠ 0x08) (hC : off ≠ 0x0C) :
    writeOffset off v s = s := by
  unfold writeOffset
  split
  case h_1 h => exact absurd (eq_offset_of_regAt h) h0
  case h_2 h => exact absurd (eq_offset_of_regAt h) h8
  case h_3 h => exact absurd (eq_offset_of_regAt h) hC
  case h_4 => rfl

theorem writeGives_ignored (s : State) {off : Nat} (v : Word) (h4 : off % 4 = 0) (h0 : off ≠ 0x00) (h8 : off ≠ 0x08)
    (hC : off ≠ 0x0C) : writeGives s off v s :=
  writeGives_of h4 fun _ => writeOffset_ignored v _ h0 h8 hC

/-- A reserved offset reads 0 (10_state R50). -/
theorem readGives_reserved (s : State) {off : Nat} (h4 : off % 4 = 0) (h : regAt off = none) : readGives s off 0#32 := by
  have hr := readGives_of (s := s) h4
  rwa [readOffset, h] at hr

/-- The fourth word of each slot's block of registers is reserved, whether the window has the slot or not (10_state R50). -/
theorem regAt_pad (t : TimerId) : regAt (0x3C + 0x10 * t.index) = none := by
  cases t with
  | other k => exact regAt_beyond (by simp only [TimerId.index]; omega)
  | _ => rfl

/-- TMODE as a number (10_state R50). -/
theorem modeWord_toNat (x : SoftTimer) : (modeWord x).toNat = x.rep.toNat + 2 * x.cben.toNat := by
  unfold modeWord
  cases x.rep <;> cases x.cben <;> rfl

/-- The three registers of each slot that the window shows (10_state R50). -/
theorem readGives_timer (s : State) {t : TimerId} (ht : t.index < 5) :
    readGives s (0x30 + 0x10 * t.index) (timer s t).delay ∧ readGives s (0x34 + 0x10 * t.index) (timer s t).start ∧
      readGives s (0x38 + 0x10 * t.index) (modeWord (timer s t)) := by
  cases t with
  | other k => exact absurd ht (by simp [TimerId.index])
  | _ => exact ⟨readGives_of rfl, readGives_of rfl, readGives_of rfl⟩

/-- Settles O14, row by row of the register map. -/
theorem registerWindow : Obligations.RegisterWindow := by
  intro s
  have hmask : s.chg.zeroExtend 32 = BitVec.ofNat 32 s.chg.toNat := by
    apply BitVec.eq_of_toNat_eq
    simp
  refine ⟨readGives_of rfl, hmask ▸ readGives_of rfl, readGives_of rfl, readGives_of rfl, readGives_of rfl, readGives_of rfl,
    readGives_of rfl, readGives_of rfl, readGives_of rfl, readGives_of rfl, fun t ht => ?_, fun off h4 hoff => ?_,
    fun off v hoff => ?_, fun hi v hv => ?_⟩
  · obtain ⟨hd, hs, hm⟩ := readGives_timer s ht
    exact ⟨hd, hs, _, hm, modeWord_toNat _⟩
  · have hres : regAt off = none := by
      rcases hoff with rfl | rfl | ⟨t, rfl⟩ | h
      · rfl
      · rfl
      · exact regAt_pad t
      · exact regAt_beyond h
    refine ⟨readGives_reserved s h4 hres, fun v => writeGives_ignored s v h4 ?_ ?_ ?_⟩ <;>
      (rintro rfl; cases hres)
  · have hoff' : off % 4 = 0 ∧ off ≠ 0x00 ∧ off ≠ 0x08 ∧ off ≠ 0x0C := by
      rcases hoff with h | h | h | h | h | h | h | ⟨t, h | h | h⟩ <;> omega
    obtain ⟨h4, h0, h8, hC⟩ := hoff'
    exact writeGives_ignored s v h4 h0 h8 hC
  · rcases hv with rfl | rfl | rfl | ⟨t, rfl | rfl⟩
    · exact hi.now
    · exact hi.frameStart
    · exact hi.lastDur
    · exact (hi.timers t).1
    · exact (hi.timers t).2

/-- The bits of STATUS, bit 0 first (10_state R51). -/
def statusBits (s : State) : List Bool :=
  [decide (s.rxPhase = .receiving), s.sofSeen, s.decPending, decide (s.rxSel = .b), s.healthy, s.ledHealth, s.ledPeak,
   s.ledOffpeak, s.record.peak, s.overrun, s.rxqLost, s.cmdErr, decide (s.phase ≠ .ready)]

/-- Bit `i` of STATUS: the one the table gives, 0 where it gives none (10_state R51). -/
theorem statusWord_getLsbD (s : State) (i : Nat) : (statusWord s).getLsbD i = (statusBits s).getD i false := by
  by_cases hi : i < 32
  · simp only [statusWord, BitVec.getLsbD_or, bitAt_getLsbD _ hi]
    by_cases h13 : i < 13
    · interval_cases i <;> simp [statusBits]
    · rw [List.getD_eq_default _ _ (by simpa [statusBits] using h13)]
      have hne : ∀ j, j < 13 → decide (j = i) = false := fun j hj => decide_eq_false (by omega)
      simp [hne]
  · rw [BitVec.getLsbD_of_ge _ _ (by omega), List.getD_eq_default _ _ (by simp [statusBits]; omega)]

/-- Settles O15: a read gives the bits of the table, and a write masks the three write-one-to-clear flags. -/
theorem statusRegister : Obligations.StatusRegister := by
  refine ⟨fun s => ⟨statusWord s, readGives_of rfl, ?_⟩, readGives_of rfl, fun s v => writeGives_of rfl fun ts => ?_⟩
  · have hbit := statusWord_getLsbD s
    refine ⟨?_, hbit 1, hbit 2, ?_, hbit 4, hbit 5, hbit 6, hbit 7, hbit 8, hbit 9, hbit 10, hbit 11, ?_, fun i hi => ?_⟩
    · rw [hbit 0]
      exact decide_eq_true_iff
    · rw [hbit 3]
      exact decide_eq_true_iff
    · rw [hbit 12]
      exact decide_eq_true_iff
    · rw [hbit i]
      exact List.getD_eq_default _ _ hi
  · have hclear : ∀ b c : Bool, (b && !c) = if c = true then false else b := by decide
    simp only [← hclear]
    rfl

/-! ### The reset values -/

/-- The reset state has the values of 10_state R57, for every parameter set. -/
theorem initial_hasResetValues (cfg : Params) (now : Word) (es : List Event) (ts : List Turn) :
    hasResetValues { State.initial cfg now with events := es, turns := ts } := by
  refine ⟨rfl, rfl, rfl, rfl, rfl, rfl, rfl, rfl, rfl, rfl, rfl, rfl, rfl, rfl, rfl, rfl, rfl, rfl, rfl, rfl, rfl, rfl, rfl,
    rfl, ?_, fun x hx => ?_, fun f => ?_⟩
  · show 5 + (List.replicate (cfg.nTimers - 5) SoftTimer.zero).length = max 5 cfg.nTimers
    rw [List.length_replicate]
    omega
  · rw [List.eq_of_mem_replicate hx]
    rfl
  · cases f <;> rfl

/-- Settles O17: RESET is the reset state with the clock, the parameters, the events and the turns kept. -/
theorem resetValues : Obligations.ResetValues := by
  refine ⟨fun s ts hts => ⟨envStep .reset { s with turns := ts }, by rw [step, hts], rfl, rfl, rfl, rfl, ?_⟩,
    initial_hasResetValues _ _ [] [], rfl, rfl⟩
  exact initial_hasResetValues s.cfg s.now s.events ts

end Sys2Proof.Machine

/-! Proofs of the family 20_memory: no command writes the decode buffer (O27), what an aligned host access does (O13), and what
any other host access does (O16). -/

namespace Sys2Proof.Machine

/-! ### Ownership of the buffers -/

/-- The buffer that is the decode buffer in `s` reads the same in `t`, whatever its role is there (20_memory R92). -/
def KeepsDecodeBuffer (s t : State) : Prop :=
  ∀ j, j < s.cfg.bufCap → cell t s.rxSel.other j = cell s s.rxSel.other j

/-- An operation that leaves the cells and the parameters alone keeps the decode buffer. -/
theorem KeepsDecodeBuffer.of_mem {s t : State} (hm : t.mem = s.mem) (hc : t.cfg = s.cfg) : KeepsDecodeBuffer s t :=
  fun _ _ => by rw [cell, cell, hm, hc]

/-- A byte from the queue is written into the receive buffer alone, even when it ends the group and swaps the roles
(40_receiver R166, R173). -/
theorem feedStep_keepsDecodeBuffer {loop next : Phase} {s t : State} (h : feedStep loop next s = .ok t) :
    KeepsDecodeBuffer s t := by
  unfold feedStep at h
  split at h
  · cases h
    exact .of_mem rfl rfl
  · obtain ⟨v, hv, rfl⟩ := map_ok h
    exact (rxStep_keeps hv).cells

/-- Decoding reads the decode buffer and writes no cell (41_decoder R200). -/
theorem decodeOp_keepsDecodeBuffer {s t : State} (p : Phase) (h : (decodeOp s).map (setPhase p) = .ok t) :
    KeepsDecodeBuffer s t := by
  obtain ⟨v, hv, rfl⟩ := map_ok h
  have k := decodeOp_keeps hv
  exact .of_mem k.mem k.cfg

theorem tPoll_keepsDecodeBuffer (u : TimerId) (p : Phase) (s : State) : KeepsDecodeBuffer s (setPhase p (tPoll u s)) :=
  .of_mem (tPoll_keeps u s).mem (tPoll_keeps u s).cfg

theorem tStart_keepsDecodeBuffer (u : TimerId) (p : Phase) (s : State) :
    KeepsDecodeBuffer s (setPhase p (tStart u s)) := by
  unfold tStart
  split_ifs <;> exact .of_mem rfl rfl

/-- No command writes the decode buffer, in whatever phase it is executed. -/
theorem exec_keepsDecodeBuffer {i : Instr} {s t : State} (h : exec i s = .next t) : KeepsDecodeBuffer s t := by
  cases i with
  | poll =>
    change execPoll s = _ at h
    unfold execPoll at h
    split at h
    · exact feedStep_keepsDecodeBuffer (outcomeOf_next.mp h)
    · cases h
      exact tPoll_keepsDecodeBuffer _ _ s
    · exact decodeOp_keepsDecodeBuffer .pollFeed (outcomeOf_next.mp h)
  | decode => exact decodeOp_keepsDecodeBuffer .ready (outcomeOf_next.mp h)
  | feed => exact feedStep_keepsDecodeBuffer (outcomeOf_next.mp h)
  | rxbyte b =>
    obtain ⟨v, hv, rfl⟩ := map_ok (outcomeOf_next.mp h)
    exact (rxStep_keeps hv).cells
  | tstart u =>
    cases h
    exact tStart_keepsDecodeBuffer u .ready s
  | tpoll u =>
    cases h
    exact tPoll_keepsDecodeBuffer u .ready s
  | tpollall =>
    cases h
    exact tPoll_keepsDecodeBuffer _ _ s
  | nop | tcfg | trestart | tstop =>
    cases h
    exact .of_mem rfl rfl

/-- Settles O27: a command writes cells of the receive buffer alone, and an environment step other than RESET none. -/
theorem decodeBufferNeverWritten : Obligations.DecodeBufferNeverWritten := by
  refine ⟨fun _ _ _ h => exec_keepsDecodeBuffer h, fun a s t ts hts ha h => ?_⟩
  rw [step, hts] at h
  cases h
  obtain ⟨-, hmem, hsel, -⟩ := envStep_keeps { s with turns := ts } ha
  exact ⟨hmem, hsel⟩

/-! ### Aligned accesses -/

/-- Two reads of one offset in a row return the same value and leave the block as it was (20_memory R96). -/
theorem runSteps_read_twice (s : State) {off : Nat} (h4 : off % 4 = 0) (ts : List Turn) :
    runSteps 2 { s with turns := .env (.hostRead (s.cfg.base + off) 32) :: .env (.hostRead (s.cfg.base + off) 32) :: ts } =
      .next { s with turns := ts, busReply := .value (readOffset s off) } := by
  have first := readGives_of (s := s) h4 (.env (.hostRead (s.cfg.base + off) 32) :: ts)
  have second := readGives_of (s := { s with busReply := .value (readOffset s off) }) h4 ts
  have same : readOffset { s with busReply := .value (readOffset s off) } off = readOffset s off :=
    readOffset_env s s.turns _ off
  rw [same] at second
  simp only [runSteps, first, second]

/-- CMD_WRITE neither reads nor changes whose turn it is (45_control R320). -/
theorem cmdWrite_setTurns (w : Word) (s : State) (ts : List Turn) :
    cmdWrite w { s with turns := ts } = { cmdWrite w s with turns := ts } := by
  unfold cmdWrite submit
  dsimp only
  split_ifs
  · rfl
  · split <;> rfl

/-- Settles O13: a read answers with the register's value; a write acts at the three offsets that take one. -/
theorem accessSideEffects : Obligations.AccessSideEffects := by
  refine ⟨fun s off h4 => ⟨readOffset s off, readGives_of h4, ?_⟩, fun s v => writeGives_of rfl fun _ => rfl,
    fun s v => writeGives_of rfl fun _ => rfl, fun s v => writeGives_of rfl fun ts => cmdWrite_setTurns v s ts,
    fun s off v h4 h0 h8 hC => writeGives_ignored s v h4 h0 h8 hC⟩
  rintro r ts rfl
  exact runSteps_read_twice s h4 ts

/-! ### Refused accesses -/

/-- An access is refused unless it is 32 bits wide and at a multiple of 4 (20_memory R95). -/
theorem accessOk_eq_false {off width : Nat} (h : width ≠ 32 ∨ off % 4 ≠ 0) : accessOk off width = false := by
  simpa [accessOk, ← not_and_or] using h

theorem hostRead_refused {off width : Nat} (h : width ≠ 32 ∨ off % 4 ≠ 0) (s : State) :
    hostRead (s.cfg.base + off) width s = { s with busReply := .refused } := by
  rw [hostRead, atOffset_base, readWindow, accessOk_eq_false h, if_neg Bool.false_ne_true]

theorem hostWrite_refused {off width : Nat} (h : width ≠ 32 ∨ off % 4 ≠ 0) (v : Word) (s : State) :
    hostWrite (s.cfg.base + off) width v s = { s with busReply := .refused } := by
  rw [hostWrite, atOffset_base, writeWindow, accessOk_eq_false h, if_neg Bool.false_ne_true]

/-- An access below BASE is none of the block's (log 16). -/
theorem hostRead_below {addr : Nat} {s : State} (h : addr < s.cfg.base) (width : Nat) :
    hostRead addr width s = { s with busReply := .notMine } :=
  if_neg (Nat.not_le_of_gt h)

theorem hostWrite_below {addr : Nat} {s : State} (h : addr < s.cfg.base) (width : Nat) (v : Word) :
    hostWrite addr width v s = { s with busReply := .notMine } :=
  if_neg (Nat.not_le_of_gt h)

/-- Settles O16: a refused access, and one below BASE, changes the bus reply alone. -/
theorem badAccessRefused : Obligations.BadAccessRefused := by
  refine ⟨fun s off width v ts h => ⟨?_, ?_⟩, fun s addr width v ts h => ⟨?_, ?_⟩⟩
  · exact congrArg Host.Outcome.next (hostRead_refused h { s with turns := ts })
  · exact congrArg Host.Outcome.next (hostWrite_refused h v { s with turns := ts })
  · exact congrArg Host.Outcome.next (hostRead_below (s := { s with turns := ts }) h width)
  · exact congrArg Host.Outcome.next (hostWrite_below (s := { s with turns := ts }) h width v)

end Sys2Proof.Machine

/-! Proofs of the family 30_encoding: which words are commands and of which command (O3, O2, O4, O1), what a step adds to the
event stream (O23), and which field a tag names (O43). -/

namespace Sys2Proof.Machine

/-! ### The bits a command reads -/

/-- Two words put together from fields are equal exactly when their fields are. -/
theorem commandWord_inj {op op' f f' : BitVec 4} {imm imm' : Byte} :
    commandWord op f imm = commandWord op' f' imm' ↔ op = op' ∧ f = f' ∧ imm = imm' := by
  constructor
  · intro h
    obtain ⟨hop, hf, himm⟩ := commandWord_fields op f imm
    rw [h] at hop hf himm
    obtain ⟨hop', hf', himm'⟩ := commandWord_fields op' f' imm'
    exact ⟨hop.symm.trans hop', hf.symm.trans hf', himm.symm.trans himm'⟩
  · rintro ⟨rfl, rfl, rfl⟩
    rfl

/-- A mask with the reserved bits clear masks the fields of a word one by one (30_encoding R120). -/
theorem and_commandWord (w : Word) (op f : BitVec 4) (imm : Byte) :
    w &&& commandWord op f imm = commandWord (opField w &&& op) (timerField w &&& f) (immField w &&& imm) := by
  unfold commandWord opField timerField immField
  apply BitVec.eq_of_getLsbD_eq
  intro i hi
  simp only [BitVec.getLsbD_and, BitVec.getLsbD_append, BitVec.getLsbD_extractLsb', BitVec.getLsbD_zero]
  split_ifs with himm hrsv hf
  · simp [himm]
  · simp
  · have hpos : 24 + (i - 8 - 16) = i := by omega
    simp [hf, hpos]
  · have hpos : 28 + (i - 8 - 16 - 4) = i := by omega
    have hop : i - 8 - 16 - 4 < 4 := by omega
    simp [hop, hpos]

/-- The two low bits of IMM are REPEAT and CB (30_encoding R120). -/
theorem and_three_eq_tcfgImm (imm : Byte) (rep cben : Bool) :
    imm &&& 3 = tcfgImm rep cben ↔ imm.getLsbD 0 = rep ∧ imm.getLsbD 1 = cben := by
  revert imm rep cben
  decide

/-- A mask over OP alone. -/
theorem and_opMask (w : Word) (op : BitVec 4) : w &&& 0xF0000000#32 = commandWord op 0 0 ↔ opField w = op := by
  rw [show 0xF0000000#32 = commandWord (BitVec.allOnes 4) 0 0 from rfl, and_commandWord, commandWord_inj]
  simp only [BitVec.and_allOnes, BitVec.ofNat_eq_ofNat, BitVec.and_zero, and_true]

/-- A mask over OP and T. -/
theorem and_timerMask (w : Word) (op f : BitVec 4) :
    w &&& 0xFF000000#32 = commandWord op f 0 ↔ opField w = op ∧ timerField w = f := by
  rw [show 0xFF000000#32 = commandWord (BitVec.allOnes 4) (BitVec.allOnes 4) 0 from rfl, and_commandWord, commandWord_inj]
  simp only [BitVec.and_allOnes, BitVec.ofNat_eq_ofNat, BitVec.and_zero, and_true]

/-- A mask over OP and IMM. -/
theorem and_immMask (w : Word) (op : BitVec 4) (imm : Byte) :
    w &&& 0xF00000FF#32 = commandWord op 0 imm ↔ opField w = op ∧ immField w = imm := by
  rw [show 0xF00000FF#32 = commandWord (BitVec.allOnes 4) 0 (BitVec.allOnes 8) from rfl, and_commandWord, commandWord_inj]
  simp only [BitVec.and_allOnes, BitVec.ofNat_eq_ofNat, BitVec.and_zero, true_and]

/-- A mask over OP, T and the two low bits of IMM. -/
theorem and_tcfgMask (w : Word) (op f : BitVec 4) (rep cben : Bool) :
    w &&& 0xFF000003#32 = commandWord op f (tcfgImm rep cben) ↔
      opField w = op ∧ timerField w = f ∧ (immField w).getLsbD 0 = rep ∧ (immField w).getLsbD 1 = cben := by
  rw [show 0xFF000003#32 = commandWord (BitVec.allOnes 4) (BitVec.allOnes 4) 3 from rfl, and_commandWord, commandWord_inj,
    and_three_eq_tcfgImm, BitVec.and_allOnes, BitVec.and_allOnes]

/-- The fields of `w` that command `i` reads are those of `i` (30_encoding R121, R122). -/
def FieldsOf (w : Word) : Instr → Prop
  | .nop => opField w = 0x0
  | .poll => opField w = 0x1
  | .decode => opField w = 0x2
  | .feed => opField w = 0x3
  | .rxbyte b => opField w = 0x4 ∧ immField w = b
  | .tcfg t rep cben =>
    opField w = 0x5 ∧ timerField w = t.field ∧ (immField w).getLsbD 0 = rep ∧ (immField w).getLsbD 1 = cben
  | .tstart t => opField w = 0x6 ∧ timerField w = t.field
  | .trestart t => opField w = 0x7 ∧ timerField w = t.field
  | .tstop t => opField w = 0x8 ∧ timerField w = t.field
  | .tpoll t => opField w = 0x9 ∧ timerField w = t.field
  | .tpollall => opField w = 0xA

/-- To agree with a command's word in the bits it reads is to have its fields. -/
theorem and_usedBits_iff (w : Word) (i : Instr) : w &&& usedBits i = encode i ↔ FieldsOf w i := by
  cases i with
  | nop | poll | decode | feed | tpollall => exact and_opMask w _
  | rxbyte b => exact and_immMask w _ b
  | tcfg t rep cben => exact and_tcfgMask w _ t.field rep cben
  | tstart t | trestart t | tstop t | tpoll t => exact and_timerMask w _ t.field

/-! ### The decoder -/

/-- An opcode known as a number. -/
theorem opField_eq {w : Word} {k : BitVec 4} (h : (opField w).toNat = k.toNat) : opField w = k :=
  BitVec.eq_of_toNat_eq h

/-- A timer command decodes to the command over the slot that its field T names. -/
theorem decodeTimer_field {n : Nat} {w : Word} {t : TimerId} (mk : TimerId → Instr) (ht : t.wellFormed n = true)
    (hf : timerField w = t.field) : decodeTimer n w mk = .ok (mk t) :=
  decodeTimer_ok.mpr ⟨t, ht, hf.symm, rfl⟩

/-- A decoded word has the fields of the command it decodes to. -/
theorem fieldsOf_decode {n : Nat} {w : Word} {i : Instr} (h : decode n w = .ok i) : FieldsOf w i := by
  unfold decode at h
  split at h
  case h_5 hop =>
    cases h
    exact ⟨opField_eq hop, rfl⟩
  case h_6 hop =>
    obtain ⟨t, -, hf, rfl⟩ := decodeTimer_ok.mp h
    exact ⟨opField_eq hop, hf.symm, rfl, rfl⟩
  case h_7 hop | h_8 hop | h_9 hop | h_10 hop =>
    obtain ⟨t, -, hf, rfl⟩ := decodeTimer_ok.mp h
    exact ⟨opField_eq hop, hf.symm⟩
  case h_12 => cases h
  all_goals
    cases h
    exact opField_eq ‹_›

/-- A word with the fields of a well-formed command decodes to it. -/
theorem decode_of_fieldsOf {n : Nat} {w : Word} {i : Instr} (hi : i.wellFormed n = true) (h : FieldsOf w i) :
    decode n w = .ok i := by
  unfold decode
  cases i with
  | nop | poll | decode | feed | tpollall =>
    rw [show opField w = _ from h]
    rfl
  | rxbyte b =>
    obtain ⟨hop, rfl⟩ := h
    rw [hop]
    rfl
  | tcfg t rep cben =>
    obtain ⟨hop, hf, rfl, rfl⟩ := h
    rw [hop]
    exact decodeTimer_field _ hi hf
  | tstart t | trestart t | tstop t | tpoll t =>
    obtain ⟨hop, hf⟩ := h
    rw [hop]
    exact decodeTimer_field _ hi hf

/-- Settles O3: to agree in the bits a command reads is to have its fields, and those are all that the decoder looks at. -/
theorem decodeReadsOnlyUsedBits : Obligations.DecodeReadsOnlyUsedBits := by
  intro n w i
  rw [and_usedBits_iff]
  exact ⟨fun h => ⟨decode_wellFormed h, fieldsOf_decode h⟩, fun ⟨hi, h⟩ => decode_of_fieldsOf hi h⟩

/-- A command's word has no bit that the command does not read (30_encoding R125: RSV is written as 0). -/
theorem encode_and_usedBits (i : Instr) : encode i &&& usedBits i = encode i := by
  rw [and_usedBits_iff]
  cases i with
  | nop | poll | decode | feed | tpollall => exact (commandWord_fields _ _ _).1
  | rxbyte b =>
    obtain ⟨hop, -, himm⟩ := commandWord_fields 0x4 0 b
    exact ⟨hop, himm⟩
  | tcfg t rep cben =>
    obtain ⟨hop, hf, himm⟩ := commandWord_fields 0x5 t.field (tcfgImm rep cben)
    have hbits := (and_three_eq_tcfgImm (tcfgImm rep cben) rep cben).mp (by cases rep <;> cases cben <;> rfl)
    exact ⟨hop, hf, himm ▸ hbits⟩
  | tstart t | trestart t | tstop t | tpoll t =>
    obtain ⟨hop, hf, -⟩ := commandWord_fields _ t.field 0
    exact ⟨hop, hf⟩

/-- Settles O2: a command's word agrees with itself in the bits the command reads, and its four lanes make it up again. -/
theorem decodeEncodeRoundTrip : Obligations.DecodeEncodeRoundTrip := by
  have round : ∀ (n : Nat) (i : Instr), i.wellFormed n = true → decode n (encode i) = .ok i := fun n i hi =>
    (decodeReadsOnlyUsedBits n (encode i) i).mpr ⟨hi, encode_and_usedBits i⟩
  refine ⟨round, fun i hi => ?_⟩
  rw [decodeTableWord_eq, round _ i hi]

/-! ### Illegal words -/

/-- `ILLEGAL(w)` over the fields of the word (45_control R320). -/
theorem illegalWord_iff {n : Nat} {w : Word} : illegalWord n w ↔
    0xB ≤ (opField w).toNat ∨ 0x5 ≤ (opField w).toNat ∧ (opField w).toNat ≤ 0x9 ∧ n ≤ (timerField w).toNat := by
  rw [opField_toNat, timerField_toNat, illegalWord]

/-- A timer command is rejected exactly when its field T is N_TIMERS or above (30_encoding R124 item 2). -/
theorem decodeTimer_error {n : Nat} {w : Word} {mk : TimerId → Instr} :
    (∃ e, decodeTimer n w mk = .error e) ↔ n ≤ (timerField w).toNat := by
  unfold decodeTimer timerOfField
  split_ifs with h
  · simpa using h
  · simpa using h

/-- The decoder answers an error exactly on the illegal words. -/
theorem decode_error_iff {n : Nat} {w : Word} : (∃ e, decode n w = .error e) ↔ illegalWord n w := by
  rw [illegalWord_iff]
  unfold decode
  split
  case h_6 hop | h_7 hop | h_8 hop | h_9 hop | h_10 hop =>
    rw [decodeTimer_error]
    omega
  case h_12 =>
    refine ⟨fun _ => .inl ?_, fun _ => ⟨_, rfl⟩⟩
    simp only [imp_false] at *
    omega
  all_goals
    refine ⟨fun ⟨_, he⟩ => (nomatch he), fun h => ?_⟩
    omega

/-- The check of a word refuses exactly the illegal words. -/
theorem legalWord_eq_false_iff {n : Nat} {w : Word} : legalWord n w = false ↔ illegalWord n w := by
  rw [illegalWord_iff]
  simp only [legalWord, opField, timerField, Bool.and_eq_false_iff, Bool.or_eq_false_iff, Bool.not_eq_false',
    Bool.and_eq_true, decide_eq_true_eq, decide_eq_false_iff_not]
  omega

/-- Settles O4: the decoder and the check of words refuse on the same two conditions on the fields. -/
theorem illegalWordsRejected : Obligations.IllegalWordsRejected := fun _ _ => ⟨decode_error_iff, legalWord_eq_false_iff⟩

/-- Settles O1: each word is decoded as it stands. -/
theorem sampleWordsDecode : Obligations.SampleWordsDecode := by
  unfold Obligations.SampleWordsDecode
  decide

/-! ### The event stream -/

/-- A microstep only appends to the event stream (30_encoding R140). -/
theorem Microstep.events_prefix {s t : State} (h : Microstep s t) : s.events <+: t.events := by
  cases h with
  | phaseOnly p => exact List.prefix_refl _
  | byte b v hb hv => exact (rxStep_keeps hv).events
  | queued b q p v hq hp hv => exact (rxStep_keeps hv).events
  | decode p v hp hv => exact (decodeOp_keeps hv).events
  | poll u p hp => exact (tPoll_keeps u s).events
  | slot u x => exact List.prefix_refl _
  | misuse u r => exact List.prefix_append _ _

/-- CMD_WRITE logs an illegal word and emits nothing else (45_control R326). -/
theorem cmdWrite_events (w : Word) (s : State) : (cmdWrite w s).events = s.events ∨
    illegalWord s.cfg.nTimers w ∧ (cmdWrite w s).events = s.events ++ [.logCmdIllegal w] := by
  unfold cmdWrite submit
  split_ifs
  · exact .inl rfl
  · split
    · exact .inl rfl
    · exact .inr ⟨decode_error_iff.mp ⟨_, ‹_›⟩, rfl⟩

/-- A host write emits only as a 32-bit write of an illegal word to CMD (45_control R332). -/
theorem hostWrite_events (addr width : Nat) (v : Word) (s : State) : (hostWrite addr width v s).events = s.events ∨
    (addr = s.cfg.base + 0x08 ∧ width = 32 ∧ illegalWord s.cfg.nTimers v ∧
      (hostWrite addr width v s).events = s.events ++ [.logCmdIllegal v]) := by
  unfold hostWrite atOffset
  dsimp only [writeWindow]
  split_ifs with hb ha
  · simp only [accessOk, Bool.and_eq_true, decide_eq_true_eq] at ha
    unfold writeOffset
    split
    case h_2 hr =>
      have hoff : addr - s.cfg.base = 0x08 := eq_offset_of_regAt hr
      exact (cmdWrite_events v s).imp_right fun ⟨hw, he⟩ => ⟨by omega, ha.1, hw, he⟩
    all_goals exact .inl rfl
  · exact .inl rfl
  · exact .inl rfl

/-- An environment step emits only as the CMD write of an illegal word (60_exceptions R351). -/
theorem envStep_events (a : EnvAction) (s : State) : (envStep a s).events = s.events ∨
    ∃ w, a = .hostWrite (s.cfg.base + 0x08) 32 w ∧ illegalWord s.cfg.nTimers w ∧
      (envStep a s).events = s.events ++ [.logCmdIllegal w] := by
  cases a with
  | arrive b =>
    simp only [envStep, arrive]
    split_ifs <;> exact .inl rfl
  | tick d => exact .inl rfl
  | hostRead addr width =>
    obtain ⟨r, he⟩ := hostRead_eq addr width s
    exact .inl (show (hostRead addr width s).events = _ by rw [he])
  | hostWrite addr width v =>
    refine (hostWrite_events addr width v s).imp_right ?_
    rintro ⟨rfl, rfl, hw, he⟩
    exact ⟨v, rfl, hw, he⟩
  | reset => exact .inl rfl

/-- Settles O23: a microstep only appends, and an environment step appends at most the log of an illegal CMD write. -/
theorem eventsAreAppendOnly : Obligations.EventsAreAppendOnly := by
  intro s t h
  rcases step_cases h with ⟨hb, ts, hm⟩ | ⟨a, ts, hts, rfl⟩
  · refine ⟨hm.events_prefix, fun a us hus => ?_⟩
    rcases hb with hb | ⟨vs, hb⟩ <;> exact nomatch hus.symm.trans hb
  · have he := envStep_events a { s with turns := ts }
    refine ⟨?_, fun b us hus hne => ?_⟩
    · rcases he with he | ⟨w, -, -, he⟩ <;> rw [he]
      exact List.prefix_append _ _
    · cases hts.symm.trans hus
      exact he.resolve_left hne

/-! ### Tags -/

/-- The look-up of a tag gives the field at whose place it stands in TAG_NAMES (30_encoding R136, R137). -/
theorem fieldOfTag_eq_some {cfg : Params} {tag : Text} {f : FieldId} (h : cfg.tagNames.Nodup) :
    fieldOfTag cfg tag = some f ↔ isTagOf cfg tag f := by
  rw [fieldOfTag, find_zip_iff h]
  simp only [wireFields_getElem?, isTagOf, and_assoc, exists_and_left, exists_eq_left]

/-- Each of the 17 entries of TAG_NAMES is the tag of a field (30_encoding R136). -/
theorem exists_isTagOf {cfg : Params} {tag : Text} (hlen : cfg.tagNames.length = 17) (h : tag ∈ cfg.tagNames) :
    ∃ f, isTagOf cfg tag f := by
  obtain ⟨i, hi, hget⟩ := List.mem_iff_getElem.mp h
  have hw : i < wireFields.length := hi.trans_eq hlen
  obtain ⟨hne, hplace⟩ := (wireFields_getElem? wireFields[i] i).mp (List.getElem?_eq_getElem hw)
  exact ⟨wireFields[i], hne, hplace ▸ List.getElem?_eq_some_iff.mpr ⟨hi, hget⟩⟩

/-- Settles O43: TAG_NAMES has one entry for each field with a tag, and no entry twice. -/
theorem tagMatchesByteForByte : Obligations.TagMatchesByteForByte := by
  intro cfg tag h
  have hp := params_facts h
  have hsome : ∀ f, fieldOfTag cfg tag = some f ↔ isTagOf cfg tag f := fun f => fieldOfTag_eq_some hp.tags_nodup
  refine ⟨hsome, fun hnone hmem => ?_, fun hmem => ?_⟩
  · obtain ⟨f, hf⟩ := exists_isTagOf hp.tags hmem
    exact nomatch hnone.symm.trans ((hsome f).mpr hf)
  · refine Option.eq_none_iff_forall_ne_some.mpr fun f hf => ?_
    obtain ⟨-, hget⟩ := (hsome f).mp hf
    exact hmem (List.mem_of_getElem? hget)

end Sys2Proof.Machine

/-! Proofs of the family 40_receiver. This part: what RXBYTE does with one byte in each phase of the receiver (O29 to O34, O36),
and FEEDSTEP, which takes its byte in the same way (O9). -/

namespace Sys2Proof.Machine

/-! ### The control bytes -/

/-- The control bytes the receiver tests for, pairwise distinct (00_scope R9). -/
structure ControlFacts (c : Params) : Prop where
  sof_ne_eof : c.sof ≠ c.eof
  sof_ne_sog : c.sof ≠ c.sog
  eof_ne_sog : c.eof ≠ c.sog
  eof_ne_eog : c.eof ≠ c.eog
  sog_ne_eog : c.sog ≠ c.eog

theorem Invariant.control {s : State} (h : Invariant s) : ControlFacts s.cfg := by
  have hd := (params_facts h.params).control
  simp only [List.nodup_cons, List.mem_cons, not_or] at hd
  obtain ⟨⟨hsofEof, hsofSog, -⟩, ⟨heofSog, heofEog, -⟩, ⟨hsogEog, -⟩, -⟩ := hd
  exact ⟨hsofEof, hsofSog, heofSog, heofEog, hsogEog⟩

/-! ### Stores at named addresses -/

theorem storesOnly_write (s : State) (a : Nat) (v : Byte) : storesOnly s [(a, v)] (Memory.write s.mem a v) := by
  refine ⟨fun c hc => ?_, fun x hx => read_write_other _ _ (hx _ (List.mem_singleton_self _))⟩
  rw [List.mem_singleton.mp hc]
  exact read_write_same ..

theorem storesOnly_write_write (s : State) {a b : Nat} (v w : Byte) (h : a ≠ b) :
    storesOnly s [(a, v), (b, w)] (Memory.write (Memory.write s.mem a v) b w) := by
  refine ⟨fun c hc => ?_, fun x hx => ?_⟩
  · rcases List.mem_pair.mp hc with rfl | rfl
    · rw [read_write_other _ _ h, read_write_same]
    · exact read_write_same ..
  · rw [read_write_other _ _ (hx (b, w) (by simp)), read_write_other _ _ (hx (a, v) (by simp))]

theorem cell_of_stored {s t : State} {w : List (Nat × Byte)} (h : storesOnly s w t.mem) (hc : t.cfg = s.cfg) {k : BufId}
    {i : Nat} {v : Byte} (hm : (cellAddr s.cfg k i, v) ∈ w) : cell t k i = some v := by
  rw [cell, hc]
  exact h.1 _ hm

theorem cell_of_not_stored {s t : State} {w : List (Nat × Byte)} (h : storesOnly s w t.mem) (hc : t.cfg = s.cfg) {k : BufId}
    {i : Nat} (hm : ∀ c, c ∈ w → cellAddr s.cfg k i ≠ c.1) : cell t k i = cell s k i := by
  rw [cell, hc]
  exact h.2 _ hm

/-! ### RXSTEP by phase -/

/-- RXBYTE is RXSTEP with the phase back to READY (40_receiver R171). -/
theorem exec_rxbyte {b : Byte} {s t : State} (h : rxStep b s = .ok t) : exec (.rxbyte b) s = .next (setPhase .ready t) :=
  outcomeOf_map h

theorem exec_rxbyte_ok {b : Byte} {s t : State} (h : exec (.rxbyte b) s = .next t) :
    ∃ v, rxStep b s = .ok v ∧ t = setPhase .ready v :=
  map_ok (outcomeOf_next.mp h)

theorem rxStep_eof (s : State) : rxStep s.cfg.eof s = phaseByte s.cfg.eof (frameEnd s) := by rw [rxStep, if_pos rfl]

theorem rxStep_of_ne_eof {b : Byte} {s : State} (h : b ≠ s.cfg.eof) : rxStep b s = phaseByte b s := by
  rw [rxStep, if_neg h]

/-- The timers after CLASSIFY(h): the status timer follows a change of the class, the watchdog the class itself
(44_health R301). -/
def classifiedTimers (h : Bool) (s : State) : TimerBank :=
  { s.tmr with
    stat := if h = s.healthy then s.tmr.stat
      else { s.tmr.stat with delay := if h = true then s.cfg.blinkSlowMs else s.cfg.blinkFastMs, start := s.now }
    wdog := { s.tmr.wdog with start := if h = true then s.now else 0 } }

/-- Everything FRAME_END does (40_receiver R162). -/
theorem frameEnd_eq (s : State) :
    frameEnd s = { s with
      lastDur := frameDuration s
      healthy := decide ((frameDuration s).toNat < s.cfg.healthThresholdMs)
      tmr := classifiedTimers (decide ((frameDuration s).toNat < s.cfg.healthThresholdMs)) s } := by
  rw [frameEnd, classify_eq]
  rfl

/-- What comes before the phase's handling of a byte changes the measurement, the health class and the timers, and those with
EOF alone (40_receiver R160, R162). -/
theorem rxStep_eq_phaseByte (b : Byte) (s : State) :
    ∃ d c m, rxStep b s = phaseByte b { s with lastDur := d, healthy := c, tmr := m } ∧
      (b ≠ s.cfg.eof → d = s.lastDur ∧ c = s.healthy ∧ m = s.tmr) := by
  by_cases hb : b = s.cfg.eof
  · subst hb
    exact ⟨_, _, _, frameEnd_eq s ▸ rxStep_eof s, fun hne => absurd rfl hne⟩
  · exact ⟨_, _, _, rxStep_of_ne_eof hb, fun _ => ⟨rfl, rfl, rfl⟩⟩

theorem phaseByte_idle {s : State} (b : Byte) (h : s.rxPhase = .idle) : phaseByte b s = .ok (idleByte b s) := by
  rw [phaseByte, h]

theorem phaseByte_eog {s : State} (h : s.rxPhase = .receiving) : phaseByte s.cfg.eog s = complete s := by
  rw [phaseByte, h]
  exact if_pos rfl

theorem phaseByte_store {b : Byte} {s : State} (h : s.rxPhase = .receiving) (hb : b ≠ s.cfg.eog)
    (hc : s.cursor < s.cfg.bufCap) : phaseByte b s = .ok (advanceCursor (putCell s.rxSel s.cursor b s)) := by
  rw [phaseByte, h, ← storeByte_eq b hc]
  exact if_neg hb

/-- The cursor of a state of the invariant lies inside its buffer (10_state R35). -/
theorem Invariant.cursor_lt {s : State} (h : Invariant s) : s.cursor < s.cfg.bufCap := by
  have hcap := (params_facts h.params).bufCap
  have hcur := h.cursor
  omega

/-! ### IDLE -/

/-- IDLE_BYTE does nothing with a byte that opens neither a frame nor a group (40_receiver R161). -/
theorem idleByte_other {b : Byte} {s : State} (hf : b ≠ s.cfg.sof) (hg : b ≠ s.cfg.sog) : idleByte b s = s := by
  rw [idleByte, if_neg hf, if_neg fun h => hg h.1]

/-- Settles O29: without an end of frame before it, the byte meets the three cases of IDLE_BYTE. (The model's function has the
obligation's name already, hence the longer one here.) -/
theorem Receiver.idleByte : Obligations.IdleByte := by
  intro s b hidle hb
  rw [exec_rxbyte ((rxStep_of_ne_eof hb).trans (phaseByte_idle b hidle)), Machine.idleByte]
  split_ifs <;> rfl

/-! ### Inside a group: storing a byte -/

theorem advanceCursor_of_room {s : State} (h : s.cursor + 1 ≠ s.cfg.bufCap - 1) :
    advanceCursor s = { s with cursor := s.cursor + 1 } := if_neg h

theorem advanceCursor_of_full {s : State} (h : s.cursor + 1 = s.cfg.bufCap - 1) :
    advanceCursor s = { s with cursor := 0, rxPhase := .idle, events := s.events ++ [.logOverflow] } := if_pos h

/-- Settles O31: the byte is written before the cursor moves, and the cursor either has room or is at its last place. -/
theorem storeByteOrAbort : Obligations.StoreByteOrAbort := by
  intro s b h hr hb
  obtain ⟨d, c, m, hstep, hne⟩ := rxStep_eq_phaseByte b s
  have hstore := exec_rxbyte (hstep.trans (phaseByte_store hr hb h.cursor_lt))
  have hmem := storesOnly_write s (cellAddr s.cfg s.rxSel s.cursor) b
  by_cases hfull : s.cursor + 1 = s.cfg.bufCap - 1
  · rw [advanceCursor_of_full (by exact hfull)] at hstore
    refine ⟨_, hstore, hmem, rfl, rfl, rfl, fun hroom => absurd hfull hroom.ne, fun _ => ⟨rfl, rfl, rfl⟩, fun hf => ?_⟩
    obtain ⟨rfl, rfl, rfl⟩ := hne hf
    rfl
  · rw [advanceCursor_of_room (by exact hfull)] at hstore
    refine ⟨_, hstore, hmem, rfl, rfl, rfl, fun _ => ⟨rfl, hr, rfl⟩, fun he => absurd he hfull, fun hf => ?_⟩
    obtain ⟨rfl, rfl, rfl⟩ := hne hf
    rfl

/-! ### Inside a group: its end -/

/-- What RXBYTE of EOG does inside a group of bytes `g` (40_receiver R165 to R169). -/
theorem Invariant.exec_eog {s : State} {g : Text} (h : Invariant s) (hin : insideGroup s g) :
    exec (.rxbyte s.cfg.eog) s = .next (Machine.setPhase .ready (toIdle (
      if s.cursor < s.cfg.minGroupLen then shortGroup s.cursor (putCell s.rxSel s.cursor 0x00#8 s)
      else if (g.getLastD 0).toNat = neededChecksum s.cfg g then
        Machine.swapRoles (putCell s.rxSel (s.cursor - 2) 0x00#8 (putCell s.rxSel s.cursor 0x00#8 s))
      else ckFail s.cursor (neededChecksum s.cfg g) (g.getLastD 0) (putCell s.rxSel s.cursor 0x00#8 s)))) := by
  obtain ⟨hr, hlen, hbytes⟩ := hin
  have hp := params_facts h.params
  exact exec_rxbyte ((rxStep_of_ne_eof h.control.eof_ne_eog.symm).trans
    ((phaseByte_eog hr).trans (complete_eq hlen hbytes h.cursor hp.bufCap hp.minGroup)))

/-- Settles O32: the length is tested before the checksum, so which bytes the group has does not matter. -/
theorem shortGroupDropped : Obligations.ShortGroupDropped := by
  intro s h hr hshort
  obtain ⟨g, hlen, hbytes⟩ := exists_bytes s s.rxSel s.cursor (h.stored hr)
  have hx := h.exec_eog ⟨hr, hlen, hbytes⟩
  rw [if_pos hshort] at hx
  exact ⟨_, hx, storesOnly_write ..⟩

/-- Settles O33: the group passes the length test and fails the checksum's. -/
theorem checksumFailureDropsGroup : Obligations.ChecksumFailureDropsGroup := by
  intro s g h hin hmin hck
  have hx := h.exec_eog hin
  rw [if_neg hmin.not_gt, if_neg (by exact hck)] at hx
  exact ⟨_, hx, storesOnly_write ..⟩

/-- Settles O34: the group passes both tests; the two cells written are distinct, since MIN_GROUP_LEN is at least 3. -/
theorem validGroupSwapsBuffers : Obligations.ValidGroupSwapsBuffers := by
  intro s g h hin hmin hck
  have hx := h.exec_eog hin
  rw [if_neg hmin.not_gt, if_pos (by exact hck)] at hx
  refine ⟨_, hx, storesOnly_write_write _ _ _ fun heq => ?_⟩
  have hlt := h.cursor_lt
  have hthree := (params_facts h.params).minGroup
  obtain ⟨-, hi⟩ := cellAddr_inj hlt ((Nat.sub_le _ _).trans_lt hlt) heq
  omega

/-! ### Any byte -/

/-- Only SOF in IDLE sets the frame start and `sof_seen` (40_receiver R161). -/
theorem Invariant.phaseByte_keepsFrameStart {b : Byte} {s t : State} (h : Invariant s) (ht : phaseByte b s = .ok t)
    (hb : s.rxPhase = .receiving ∨ b ≠ s.cfg.sof) : t.frameStart = s.frameStart ∧ t.sofSeen = s.sofSeen := by
  cases hr : s.rxPhase with
  | idle =>
    cases (phaseByte_idle b hr).symm.trans ht
    rw [Machine.idleByte, if_neg (hb.resolve_left (by simp [hr]))]
    split_ifs <;> exact ⟨rfl, rfl⟩
  | receiving =>
    by_cases heog : b = s.cfg.eog
    · subst heog
      obtain ⟨g, hlen, hbytes⟩ := exists_bytes s s.rxSel s.cursor (h.stored hr)
      have hp := params_facts h.params
      cases ((phaseByte_eog hr).trans (complete_eq hlen hbytes h.cursor hp.bufCap hp.minGroup)).symm.trans ht
      split_ifs <;> exact ⟨rfl, rfl⟩
    · cases (phaseByte_store hr heog h.cursor_lt).symm.trans ht
      rw [advanceCursor_eq]
      exact ⟨rfl, rfl⟩

theorem Invariant.rxStep_keepsFrameStart {b : Byte} {s t : State} (h : Invariant s) (ht : rxStep b s = .ok t)
    (hb : s.rxPhase = .receiving ∨ b ≠ s.cfg.sof) : t.frameStart = s.frameStart ∧ t.sofSeen = s.sofSeen := by
  by_cases he : b = s.cfg.eof
  · subst he
    rw [rxStep_eof] at ht
    have hk := h.frameEnd.phaseByte_keepsFrameStart ht
    rw [frameEnd_eq] at hk
    exact hk hb
  · exact h.phaseByte_keepsFrameStart (rxStep_of_ne_eof he ▸ ht) hb

/-- Settles O36: RXSTEP completes, and its frame, its flags and its rule for the frame start are those of its parts. -/
theorem rxbyteCompletes : Obligations.RxbyteCompletes := by
  intro s b h
  obtain ⟨t, ht, -⟩ := h.rxStep_completes b
  have hk := rxStep_keeps ht
  obtain ⟨-, -, hmeasure⟩ := rxStep_flags ht
  have hstart := h.rxStep_keepsFrameStart ht
  exact ⟨setPhase .ready t, exec_rxbyte ht, rfl, hk.rxq, hk.rxqLost, hk.record, hk.chg, hk.unkCnt, hk.now, hk.ledHealth,
    hk.ledPeak, hk.ledOffpeak, hk.data, hk.cmdErr, hk.turns, hk.busReply, hmeasure, hstart⟩

/-! ### The end of a frame -/

/-- The duration of the rule is the one the model measures (40_receiver R162). -/
theorem Invariant.eq_frameDuration {s : State} (h : Invariant s) {d : Word}
    (hd : (d.toNat : Int) = ((s.now.toNat : Int) - (s.frameStart.toNat : Int)) % (2 ^ s.cfg.clockBits : Int)) :
    d = frameDuration s :=
  BitVec.eq_of_toNat_eq (Int.ofNat_inj.mp (hd.trans (wsub_toNat (params_facts h.params).clock_le ..).symm))

/-- Settles O30: FRAME_END is CLASSIFY of the measured duration, and the phase's handling of the byte then keeps what it has
measured. In IDLE that handling does nothing with EOF; in a group it is STORE. -/
theorem endOfFrameMeasuresAndClassifies : Obligations.EndOfFrameMeasuresAndClassifies := by
  intro s d c h hd hc
  obtain rfl := h.eq_frameDuration hd
  obtain rfl : c = decide ((frameDuration s).toNat < s.cfg.healthThresholdMs) := Bool.eq_iff_iff.mpr (by simpa using hc)
  obtain ⟨t, ht, -⟩ := h.rxStep_completes s.cfg.eof
  obtain ⟨hstart, -⟩ := h.rxStep_keepsFrameStart ht (.inr h.control.sof_ne_eof.symm)
  have hphase := (rxStep_eof s).symm.trans ht
  obtain ⟨-, -, hdur, hclass, htmr⟩ := phaseByte_flags hphase
  rw [frameEnd_eq] at hphase hdur hclass htmr
  refine ⟨setPhase .ready t, exec_rxbyte ht, hdur, hclass, hstart, ?_⟩
  simp only [setPhase_tmr, htmr]
  refine ⟨rfl, rfl, rfl, rfl, fun hsame => if_pos hsame, fun hdiff => if_neg hdiff, fun hidle => ?_, fun hr => ?_⟩
  · rw [phaseByte_idle _ (by exact hidle), idleByte_other (by exact h.control.sof_ne_eof.symm)
      (by exact h.control.eof_ne_sog)] at hphase
    cases hphase
    rfl
  · obtain ⟨u, hu, hstored, -⟩ := storeByteOrAbort s s.cfg.eof h hr h.control.eof_ne_eog
    cases hu.symm.trans (exec_rxbyte ht)
    exact hstored

/-! ### The input queue -/

theorem feedStep_empty {loop next : Phase} {s : State} (h : s.rxq = []) : feedStep loop next s = .ok (setPhase next s) := by
  rw [feedStep, h]

/-- With a byte queued, FEEDSTEP and RXBYTE run the same RXSTEP, each with its own phase after it (40_receiver R171, R173). -/
theorem Invariant.feedStep_takes {s : State} {b : Byte} {q : List Byte} (h : Invariant s) (hq : s.rxq = b :: q)
    (loop next : Phase) : ∃ t, exec (.rxbyte b) { s with rxq := q } = .next t ∧
      feedStep loop next s = .ok { t with phase := loop } := by
  have hs : Invariant { s with rxq := q } := { h with queue := (Nat.le_succ _).trans (by simpa [hq] using h.queue) }
  obtain ⟨t, ht, -⟩ := hs.rxStep_completes b
  refine ⟨_, exec_rxbyte ht, ?_⟩
  simp only [feedStep, hq, ht]
  rfl

theorem exec_poll_feeding {s : State} (h : s.phase = .pollFeed) :
    exec .poll s = outcomeOf (feedStep .pollFeed (.pollTmr .minp) s) := by
  show execPoll s = _
  rw [execPoll, h]

/-- Settles O9: FEED and POLL's drain are FEEDSTEP, each with its own pair of phases. -/
theorem feedStepTakesOneByte : Obligations.FeedStepTakesOneByte := by
  refine ⟨fun s _ hq => ?_, fun s hp hq => ?_, fun s b q h _ hq => ?_, fun s b q h hp hq => ?_⟩
  · exact outcomeOf_next.mpr (feedStep_empty hq)
  · exact (exec_poll_feeding hp).trans (outcomeOf_next.mpr (feedStep_empty hq))
  · obtain ⟨t, ht, hf⟩ := h.feedStep_takes hq .feedLoop .ready
    exact ⟨t, ht, outcomeOf_next.mpr hf⟩
  · obtain ⟨t, ht, hf⟩ := h.feedStep_takes hq .pollFeed (.pollTmr .minp)
    exact ⟨t, ht, (exec_poll_feeding hp).trans (outcomeOf_next.mpr hf)⟩

end Sys2Proof.Machine

/-! This part: a whole group, byte by byte (O35). The bytes are stored one after the other as long as there is room; the byte
`BUF_CAP - 1` aborts the group, and then IDLE has no use for the rest. -/

namespace Sys2Proof.Machine

/-! ### Runs of RXBYTE -/

theorem rxbytes_cons {b : Byte} {bs : Text} {s t : State} (h : exec (.rxbyte b) s = .next t) :
    rxbytes (b :: bs) s = rxbytes bs t := by
  rw [rxbytes, h]

theorem rxbytes_append {xs ys : Text} {s t : State} (h : rxbytes xs s = .next t) : rxbytes (xs ++ ys) s = rxbytes ys t := by
  induction xs generalizing s with
  | nil =>
    cases h
    rfl
  | cons b bs ih =>
    cases hx : exec (.rxbyte b) s with
    | next u =>
      rw [rxbytes_cons hx] at h
      exact (rxbytes_cons hx).trans (ih h)
    | fault f => simp [rxbytes, hx] at h
    | refused r => simp [rxbytes, hx] at h

theorem exec_rxbyte_cfg {b : Byte} {s t : State} (h : exec (.rxbyte b) s = .next t) : t.cfg = s.cfg := by
  obtain ⟨v, hv, rfl⟩ := exec_rxbyte_ok h
  exact (rxStep_keeps hv).cfg

theorem Invariant.exec_rxbyte {b : Byte} {s t : State} (h : Invariant s) (ht : exec (.rxbyte b) s = .next t) :
    Invariant t := by
  obtain ⟨u, hu, hi⟩ := h.exec_completes (c := .rxbyte b) rfl
  cases hu.symm.trans ht
  exact hi

theorem Invariant.rxbytes {bs : Text} {s t : State} (h : Invariant s) (ht : rxbytes bs s = .next t) : Invariant t := by
  induction bs generalizing s with
  | nil =>
    cases ht
    exact h
  | cons b bs ih =>
    obtain ⟨u, hu, hi⟩ := h.exec_completes (c := .rxbyte b) rfl
    exact ih hi ((rxbytes_cons hu).symm.trans ht)

/-- No group is accepted or lost between two states: the parameters, the buffers' roles, the pending flag and OVERRUN are the
same. -/
structure KeepsRoles (s t : State) : Prop where
  cfg : t.cfg = s.cfg
  rxSel : t.rxSel = s.rxSel
  decPending : t.decPending = s.decPending
  overrun : t.overrun = s.overrun

theorem KeepsRoles.refl (s : State) : KeepsRoles s s := ⟨rfl, rfl, rfl, rfl⟩

theorem KeepsRoles.trans {s t u : State} (h : KeepsRoles s t) (g : KeepsRoles t u) : KeepsRoles s u :=
  ⟨g.cfg.trans h.cfg, g.rxSel.trans h.rxSel, g.decPending.trans h.decPending, g.overrun.trans h.overrun⟩

/-! ### The first byte -/

/-- SOG in IDLE, once a SOF has been seen, begins an empty group (40_receiver R161). -/
theorem Invariant.exec_sog {s : State} (h : Invariant s) (hidle : s.rxPhase = .idle) (hsof : s.sofSeen = true) :
    ∃ t, exec (.rxbyte s.cfg.sog) s = .next t ∧ KeepsRoles s t ∧ t.events = s.events ∧ insideGroup t [] := by
  have hx := Receiver.idleByte s s.cfg.sog hidle h.control.eof_ne_sog.symm
  rw [if_neg h.control.sof_ne_sog.symm, if_pos ⟨rfl, hsof⟩] at hx
  exact ⟨_, hx, ⟨rfl, rfl, rfl, rfl⟩, rfl, rfl, rfl, fun _ hi => absurd hi (Nat.not_lt_zero _)⟩

/-! ### Bytes in IDLE -/

/-- A byte other than SOG finds the receiver in IDLE and leaves it there, and emits nothing (40_receiver R161, R162). -/
theorem rxbyte_in_idle {b : Byte} {s : State} (hidle : s.rxPhase = .idle) (hb : b ≠ s.cfg.sog) :
    ∃ t, exec (.rxbyte b) s = .next t ∧ t.rxPhase = .idle ∧ KeepsRoles s t ∧ t.events = s.events := by
  obtain ⟨d, c, m, hstep, -⟩ := rxStep_eq_phaseByte b s
  have hx := exec_rxbyte (hstep.trans (phaseByte_idle b hidle))
  refine ⟨_, hx, ?_⟩
  rw [idleByte, if_neg (c := _ ∧ _) fun h => hb h.1]
  split_ifs <;> exact ⟨hidle, ⟨rfl, rfl, rfl, rfl⟩, rfl⟩

theorem rxbytes_in_idle {g : Text} {s : State} (hidle : s.rxPhase = .idle) (hg : s.cfg.sog ∉ g) :
    ∃ t, rxbytes g s = .next t ∧ t.rxPhase = .idle ∧ KeepsRoles s t ∧ t.events = s.events := by
  induction g generalizing s with
  | nil => exact ⟨s, rfl, hidle, .refl s, rfl⟩
  | cons b g ih =>
    obtain ⟨hb, hg⟩ := not_or.mp (List.mem_cons.not.mp hg)
    obtain ⟨t, ht, hti, hk, he⟩ := rxbyte_in_idle hidle (Ne.symm hb)
    obtain ⟨u, hu, hui, hku, hue⟩ := ih hti (by rwa [hk.cfg])
    exact ⟨u, (rxbytes_cons ht).trans hu, hui, hk.trans hku, hue.trans he⟩

/-! ### Bytes inside a group -/

/-- The cells of a group after one more byte is stored at its end. -/
theorem holdsBytes_snoc {s t : State} {k : BufId} {g : Text} {b : Byte} (hg : holdsBytes s k g)
    (hcfg : t.cfg = s.cfg) (hm : storesOnly s [(cellAddr s.cfg k g.length, b)] t.mem) (hlt : g.length < s.cfg.bufCap) :
    holdsBytes t k (g ++ [b]) := by
  intro i hi
  rcases Nat.lt_or_ge i g.length with hlti | hge
  · rw [List.getElem_append_left hlti, ← hg i hlti]
    refine cell_of_not_stored hm hcfg fun c hc heq => ?_
    rw [List.mem_singleton.mp hc] at heq
    obtain ⟨-, hij⟩ := cellAddr_inj (hlti.trans hlt) hlt heq
    exact hlti.ne hij
  · obtain rfl : i = g.length := by simp at hi; omega
    rw [List.getElem_concat_length rfl]
    exact cell_of_stored hm hcfg (List.mem_singleton_self _)

/-- A byte that is not the group's end, from a state inside the group `g`: with room it makes the group one byte longer, and
without it aborts the group (40_receiver R163, R164). -/
theorem Invariant.rxbyte_in_group {b : Byte} {g : Text} {s : State} (h : Invariant s) (hin : insideGroup s g)
    (hb : b ≠ s.cfg.eog) : ∃ t, exec (.rxbyte b) s = .next t ∧ KeepsRoles s t ∧
      (g.length + 1 < s.cfg.bufCap - 1 → insideGroup t (g ++ [b]) ∧ t.events = s.events) ∧
      (g.length + 1 = s.cfg.bufCap - 1 → t.rxPhase = .idle ∧ t.events = s.events ++ [.logOverflow]) := by
  obtain ⟨hr, hlen, hbytes⟩ := hin
  obtain ⟨t, ht, hm, hsel, hpend, hover, hroom, hfull, -⟩ := storeByteOrAbort s b h hr hb
  have hcfg := exec_rxbyte_cfg ht
  rw [← hlen] at hm hroom hfull
  refine ⟨t, ht, ⟨hcfg, hsel, hpend, hover⟩, fun hlt => ?_, fun heq => ?_⟩
  · obtain ⟨hcur, hrt, he⟩ := hroom hlt
    exact ⟨⟨hrt, by simp [hcur], hsel ▸ holdsBytes_snoc hbytes hcfg hm (hlen ▸ h.cursor_lt)⟩, he⟩
  · obtain ⟨-, hidle, he⟩ := hfull heq
    exact ⟨hidle, he⟩

/-- The bytes of a group as long as there is room for them (40_receiver R163). -/
theorem Invariant.rxbytes_in_group {pre g : Text} {s : State} (h : Invariant s) (hin : insideGroup s pre)
    (hg : s.cfg.eog ∉ g) (hroom : pre.length + g.length < s.cfg.bufCap - 1) :
    ∃ t, Machine.rxbytes g s = .next t ∧ KeepsRoles s t ∧ insideGroup t (pre ++ g) ∧ t.events = s.events := by
  induction g generalizing s pre with
  | nil => exact ⟨s, rfl, .refl s, by rwa [List.append_nil], rfl⟩
  | cons b g ih =>
    obtain ⟨hb, hg⟩ := not_or.mp (List.mem_cons.not.mp hg)
    rw [List.length_cons] at hroom
    obtain ⟨t, ht, hk, hfits, -⟩ := h.rxbyte_in_group hin (Ne.symm hb)
    obtain ⟨hint, he⟩ := hfits (by omega)
    obtain ⟨u, hu, hku, hinu, heu⟩ := ih (h.exec_rxbyte ht) hint (by rwa [hk.cfg])
      (by rw [hk.cfg, List.length_append, List.length_singleton]; omega)
    exact ⟨u, (rxbytes_cons ht).trans hu, hk.trans hku, by simpa using hinu, heu.trans he⟩

/-- A group too long for its buffer is aborted once, and the bytes after that find the receiver in IDLE (40_receiver
R164). -/
theorem Invariant.rxbytes_overflow {g : Text} {s : State} (h : Invariant s) (hin : insideGroup s []) (hg : s.cfg.eog ∉ g)
    (hlong : s.cfg.bufCap - 1 ≤ g.length) (hsog : s.cfg.sog ∉ g.drop (s.cfg.bufCap - 1)) :
    ∃ t, Machine.rxbytes g s = .next t ∧ t.rxPhase = .idle ∧ KeepsRoles s t ∧ t.events = s.events ++ [.logOverflow] := by
  have hcap := (params_facts h.params).bufCap
  have hlt : s.cfg.bufCap - 2 < g.length := by omega
  have hlen : (g.take (s.cfg.bufCap - 2)).length = s.cfg.bufCap - 2 := List.length_take_of_le hlt.le
  have hsplit : g = g.take (s.cfg.bufCap - 2) ++ (g[s.cfg.bufCap - 2] :: g.drop (s.cfg.bufCap - 1)) := by
    rw [show s.cfg.bufCap - 1 = s.cfg.bufCap - 2 + 1 by omega, ← List.drop_eq_getElem_cons hlt, List.take_append_drop]
  obtain ⟨t, ht, hk, hint, he⟩ := h.rxbytes_in_group hin (fun hm => hg (List.mem_of_mem_take hm))
    (by rw [hlen, List.length_nil]; omega)
  obtain ⟨u, hu, hku, -, hfull⟩ := (h.rxbytes ht).rxbyte_in_group hint (b := g[s.cfg.bufCap - 2])
    fun heq => hg (hk.cfg ▸ heq ▸ List.getElem_mem hlt)
  obtain ⟨hidle, heu⟩ := hfull (by rw [hk.cfg, List.nil_append, hlen]; omega)
  have hku' := hk.trans hku
  obtain ⟨v, hv, hvi, hkv, hev⟩ := rxbytes_in_idle hidle (by rwa [hku'.cfg])
  refine ⟨v, ?_, hvi, hku'.trans hkv, by rw [hev, heu, he]⟩
  rw [hsplit]
  exact (rxbytes_append ht).trans ((rxbytes_cons hu).trans hv)

/-! ### The last byte -/

/-- EOG after a group that is too short or fails its checksum (40_receiver R167, R169). -/
theorem Invariant.exec_eog_drops {g : Text} {s : State} (h : Invariant s) (hin : insideGroup s g)
    (hbad : ¬(s.cfg.minGroupLen ≤ g.length ∧ endsInChecksum s.cfg g)) :
    ∃ t, exec (.rxbyte s.cfg.eog) s = .next t ∧ t.rxPhase = .idle ∧ KeepsRoles s t := by
  obtain ⟨hr, hlen, -⟩ := id hin
  rw [hlen] at hbad
  rcases Nat.lt_or_ge s.cursor s.cfg.minGroupLen with hshort | hmin
  · obtain ⟨m, hx, -⟩ := shortGroupDropped s h hr hshort
    exact ⟨_, hx, rfl, rfl, rfl, rfl, rfl⟩
  · obtain ⟨m, hx, -⟩ := checksumFailureDropsGroup s g h hin hmin fun hck => hbad ⟨hmin, hck⟩
    exact ⟨_, hx, rfl, rfl, rfl, rfl, rfl⟩

/-- EOG after a group that passes both tests: the buffer just filled is the decode buffer and holds the group without its last
two bytes (40_receiver R166). -/
theorem Invariant.exec_eog_accepts {g : Text} {s : State} (h : Invariant s) (hin : insideGroup s g)
    (hmin : s.cfg.minGroupLen ≤ g.length) (hck : endsInChecksum s.cfg g) :
    ∃ t, exec (.rxbyte s.cfg.eog) s = .next t ∧ t.rxPhase = .idle ∧ t.decPending = true ∧ t.rxSel = s.rxSel.other ∧
      t.overrun = (s.overrun || s.decPending) ∧ holdsBytes t s.rxSel (g.take (g.length - 2)) ∧
      cell t s.rxSel (g.length - 2) = some 0x00#8 := by
  obtain ⟨-, hlen, hbytes⟩ := id hin
  obtain ⟨m, hx, hm⟩ := validGroupSwapsBuffers s g h hin (hlen ▸ hmin) hck
  have hcfg := exec_rxbyte_cfg hx
  have hlt := h.cursor_lt
  refine ⟨_, hx, rfl, rfl, rfl, rfl, fun i hi => ?_, ?_⟩
  · have hi2 : i < g.length - 2 := by simpa using hi
    rw [List.getElem_take, ← hbytes i (by omega)]
    refine cell_of_not_stored hm hcfg fun c hc heq => ?_
    rcases List.mem_pair.mp hc with rfl | rfl
    · obtain ⟨-, hij⟩ := cellAddr_inj (by omega) hlt heq
      omega
    · obtain ⟨-, hij⟩ := cellAddr_inj (by omega) (by omega) heq
      omega
  · exact cell_of_stored hm hcfg (by simp [hlen])

/-- Settles O35: SOG begins the group, its bytes fit or overflow, and the EOG after bytes that fit is decided by the length and
the checksum, while the one after an overflow comes in IDLE. -/
theorem groupAcceptedExactlyWhenValid : Obligations.GroupAcceptedExactlyWhenValid := by
  intro s g h hidle hsof hg hsog
  obtain ⟨s₁, h₁, hk₁, he₁, hin₁⟩ := h.exec_sog hidle hsof
  have hi₁ := h.exec_rxbyte h₁
  have hcap := (params_facts h.params).bufCap
  have hrun : ∀ u t, rxbytes g s₁ = .next u → exec (.rxbyte s.cfg.eog) u = .next t →
      rxbytes (s.cfg.sog :: (g ++ [s.cfg.eog])) s = .next t := fun u t hu ht =>
    ((rxbytes_cons h₁).trans (rxbytes_append hu)).trans (rxbytes_cons ht)
  rw [← hk₁.cfg] at hg hsog
  rcases Nat.lt_or_ge g.length (s.cfg.bufCap - 1) with hfits | hlong
  · obtain ⟨s₂, h₂, hk₂, hin₂, -⟩ := hi₁.rxbytes_in_group hin₁ hg (by simpa [hk₁.cfg] using hfits)
    have hi₂ := hi₁.rxbytes h₂
    have hk := hk₁.trans hk₂
    by_cases hgood : s.cfg.minGroupLen ≤ g.length ∧ endsInChecksum s.cfg g
    · obtain ⟨hmin, hck⟩ := hgood
      obtain ⟨t, ht, hti, hpend, hsel, hover, hbytes, hend⟩ :=
        hi₂.exec_eog_accepts hin₂ (by rwa [hk.cfg]) (by rwa [hk.cfg])
      rw [hk.rxSel] at hsel hbytes hend
      rw [hk.overrun, hk.decPending] at hover
      refine ⟨t, hrun _ _ h₂ (hk.cfg ▸ ht), hti, (hi₂.exec_rxbyte ht).idle hti, fun _ => ⟨hpend, hsel, hover, hbytes, hend⟩,
        fun hbad => absurd ⟨hmin, by omega, hck⟩ hbad, fun hlong => absurd hfits hlong.not_gt⟩
    · obtain ⟨t, ht, hti, hkt⟩ := hi₂.exec_eog_drops hin₂ (by rwa [hk.cfg])
      have hkeep := hk.trans hkt
      refine ⟨t, hrun _ _ h₂ (hk.cfg ▸ ht), hti, (hi₂.exec_rxbyte ht).idle hti, fun hok => ?_,
        fun _ => ⟨hkeep.decPending, hkeep.rxSel, hkeep.overrun⟩, fun hlong => absurd hfits hlong.not_gt⟩
      obtain ⟨hmin, -, hck⟩ := hok
      exact absurd ⟨hmin, hck⟩ hgood
  · obtain ⟨s₂, h₂, hidle₂, hk₂, he₂⟩ := hi₁.rxbytes_overflow hin₁ hg (by rwa [hk₁.cfg]) hsog
    have hk := hk₁.trans hk₂
    obtain ⟨t, ht, hti, hkt, het⟩ := rxbyte_in_idle (b := s.cfg.eog) hidle₂ (hk.cfg ▸ h.control.sog_ne_eog.symm)
    have hkeep := hk.trans hkt
    refine ⟨t, hrun _ _ h₂ ht, hti, ((hi₁.rxbytes h₂).exec_rxbyte ht).idle hti, fun hok => ?_,
      fun _ => ⟨hkeep.decPending, hkeep.rxSel, hkeep.overrun⟩, fun _ => by rw [het, he₂, he₁]⟩
    obtain ⟨-, hmax, -⟩ := hok
    omega

end Sys2Proof.Machine

/-! Proofs of the family 41_decoder. This part: how a group's string is read, that is its cut into tokens (O42), decimal numbers
(O44), timestamps (O45), and what each validator accepts (O46, O47). -/

namespace Sys2Proof.Machine

/-! ### Tokens -/

theorem splitText_nil (d : Byte) : splitText d [] = [[]] := rfl

/-- A separator begins a new piece (00_scope R13). -/
theorem splitText_sep (d : Byte) (cs : Text) : splitText d (d :: cs) = [] :: splitText d cs := by simp [splitText]

/-- A byte that is no separator stands at the head of the first piece (00_scope R13). -/
theorem splitText_byte {d c : Byte} {cs p : Text} {ps : List Text} (hc : c ≠ d) (h : splitText d cs = p :: ps) :
    splitText d (c :: cs) = (c :: p) :: ps := by simp [splitText, hc, h]

/-- There is a first piece, be it empty. -/
theorem exists_splitText_eq_cons (d : Byte) (str : Text) : ∃ p ps, splitText d str = p :: ps := by
  induction str with
  | nil => exact ⟨_, _, splitText_nil d⟩
  | cons c cs ih =>
    obtain ⟨p, ps, h⟩ := ih
    by_cases hc : c = d
    · subst hc
      exact ⟨_, _, splitText_sep c cs⟩
    · exact ⟨_, _, splitText_byte hc h⟩

/-- A byte before the first piece stands before the joined string. -/
theorem intercalate_cons_head (d c : Byte) (p : Text) (ps : List Text) :
    List.intercalate [d] ((c :: p) :: ps) = c :: List.intercalate [d] (p :: ps) := by
  cases ps <;> simp [List.intercalate]

/-- The pieces joined by the separator give the string (00_scope R13). -/
theorem intercalate_splitText (d : Byte) (str : Text) : List.intercalate [d] (splitText d str) = str := by
  induction str with
  | nil => rfl
  | cons c cs ih =>
    obtain ⟨p, ps, h⟩ := exists_splitText_eq_cons d cs
    rw [h] at ih
    by_cases hc : c = d
    · subst hc
      rw [splitText_sep, h]
      simpa [List.intercalate] using ih
    · rw [splitText_byte hc h, intercalate_cons_head, ih]

/-- Every separator cuts: there is one piece more than there are separators. -/
theorem splitText_length_eq (d : Byte) (str : Text) : (splitText d str).length = str.count d + 1 := by
  induction str with
  | nil => rfl
  | cons c cs ih =>
    by_cases hc : c = d
    · subst hc
      rw [splitText_sep, List.length_cons, ih, List.count_cons_self]
    · obtain ⟨p, ps, h⟩ := exists_splitText_eq_cons d cs
      rw [List.count_cons_of_ne hc, ← ih, splitText_byte hc h, h, List.length_cons, List.length_cons]

theorem sep_notMem_splitText {d : Byte} {str p : Text} (h : p ∈ splitText d str) : d ∉ p := by
  induction str generalizing p with
  | nil =>
    obtain rfl := List.mem_singleton.mp h
    exact List.not_mem_nil
  | cons c cs ih =>
    by_cases hc : c = d
    · subst hc
      rw [splitText_sep] at h
      rcases List.mem_cons.mp h with rfl | h
      · exact List.not_mem_nil
      · exact ih h
    · obtain ⟨q, qs, hs⟩ := exists_splitText_eq_cons d cs
      rw [splitText_byte hc hs] at h
      rw [hs] at ih
      rcases List.mem_cons.mp h with rfl | h
      · exact List.not_mem_cons_of_ne_of_not_mem (Ne.symm hc) (ih List.mem_cons_self)
      · exact ih (List.mem_cons_of_mem _ h)

/-- The three tokens are the first three pieces, where they exist (41_decoder R201). -/
theorem tokenize_pieces (d : Byte) (str : Text) :
    (tokenize d str).tag = (splitText d str).getD 0 [] ∧ (tokenize d str).t1 = (splitText d str).getD 1 [] ∧
      (tokenize d str).t2 = (splitText d str)[2]? := by
  unfold tokenize
  rcases splitText d str with _ | ⟨tag, _ | ⟨t1, _ | ⟨t2, rest⟩⟩⟩ <;> exact ⟨rfl, rfl, rfl⟩

/-- Settles O42: the pieces are those of `splitText`. -/
theorem tokensAreThePiecesBetweenSeparators : Obligations.TokensAreThePiecesBetweenSeparators := fun d str =>
  ⟨splitText d str, intercalate_splitText d str, splitText_length_eq d str, fun _ => sep_notMem_splitText,
    tokenize_pieces d str⟩

/-! ### Decimal numbers -/

theorem isDigit_iff {c : Byte} : isDigit c = true ↔ 0x30 ≤ c.toNat ∧ c.toNat ≤ 0x39 := by simp [isDigit]

theorem all_isDigit_iff {t : Text} : t.all isDigit = true ↔ ∀ c, c ∈ t → 0x30 ≤ c.toNat ∧ c.toNat ≤ 0x39 := by
  simp only [List.all_eq_true, isDigit_iff]

/-- The number the formula of 41_decoder R203 gives is the one the parser's loop computes. -/
theorem writesNumber_iff {t : Text} {n : Nat} :
    writesNumber t n ↔ t ≠ [] ∧ t.all isDigit = true ∧ n = digitsValue t 0 := by
  rw [writesNumber, all_isDigit_iff, digitsValue_eq, Nat.zero_mul, Nat.zero_add]

/-- What PARSE_U32 accepts, and with which number (41_decoder R203). -/
theorem parseU32_eq_some {t : Text} {x : Word} : parseU32 t = some x ↔ writesNumber t x.toNat := by
  rw [writesNumber_iff, parseU32]
  have hx : x.toNat < 2 ^ 32 := x.isLt
  split_ifs with hform hbig
  · have hbad : ¬(t ≠ [] ∧ t.all isDigit = true) := by simpa [Decidable.imp_iff_not_or] using hform
    exact iff_of_false (nomatch ·) fun ⟨hne, hdig, _⟩ => hbad ⟨hne, hdig⟩
  · refine iff_of_false (nomatch ·) ?_
    rintro ⟨-, -, hval⟩
    omega
  · have hgood : t ≠ [] ∧ t.all isDigit = true := by simpa using hform
    rw [Option.some.injEq, ← BitVec.toNat_inj, BitVec.toNat_ofNat, Nat.mod_eq_of_lt (by omega)]
    exact ⟨fun hval => ⟨hgood.1, hgood.2, hval.symm⟩, fun ⟨_, _, hval⟩ => hval.symm⟩

/-- Settles O44: the loop of the parser computes the sum of R203. -/
theorem parseReadsDecimalNumbers : Obligations.ParseReadsDecimalNumbers := fun _ _ => parseU32_eq_some

/-! ### Timestamps -/

/-- A letter is in a set up to case (41_decoder R204). -/
theorem upper_mem_iff {l : List Byte} {c : Byte} :
    (l.map upper).contains (upper c) = true ↔ ∃ a, a ∈ l ∧ upper c = upper a := by
  rw [List.contains_iff_mem, List.mem_map]
  simp only [eq_comm]

/-- The bytes after the first of 13 are the places 1 to 12. -/
theorem forall_mem_tail_iff {P : Byte → Prop} {c : Byte} {ds : Text} (h : ds.length = 12) :
    (∀ b, b ∈ ds → P b) ↔ ∀ i, 1 ≤ i → i ≤ 12 → P ((c :: ds).getD i 0) := by
  constructor
  · intro hall i h1 h12
    obtain ⟨j, rfl⟩ : ∃ j, i = j + 1 := ⟨i - 1, by omega⟩
    have hj : j < ds.length := by omega
    rw [List.getD_cons_succ, List.getD_eq_getElem _ _ hj]
    exact hall _ (List.getElem_mem hj)
  · intro hall b hb
    obtain ⟨j, hj, rfl⟩ := List.mem_iff_getElem.mp hb
    have hplace := hall (j + 1) (by omega) (by omega)
    rwa [List.getD_cons_succ, List.getD_eq_getElem _ _ hj] at hplace

/-- What TSHAPE accepts (41_decoder R204). -/
theorem tShape_iff {cfg : Params} {t : Text} : tShape cfg t = true ↔
    t.length = 13 ∧ (∃ c, c ∈ cfg.seasonSet ∧ upper (t.getD 0 0) = upper c) ∧
      ∀ i, 1 ≤ i → i ≤ 12 → 0x30 ≤ (t.getD i 0).toNat ∧ (t.getD i 0).toNat ≤ 0x39 := by
  cases t with
  | nil => simp [tShape]
  | cons c ds =>
    simp only [tShape, Bool.and_eq_true, decide_eq_true_eq, upper_mem_iff, all_isDigit_iff, List.length_cons,
      List.getD_cons_zero, and_assoc, Nat.reduceEqDiff]
    refine and_congr_right fun hlen => and_congr_right fun _ => ?_
    exact forall_mem_tail_iff (P := fun b => 0x30 ≤ b.toNat ∧ b.toNat ≤ 0x39) hlen

/-- The two cases of an upper-case letter `u` (00_scope R13). -/
theorem upper_eq_iff {b u : Byte} (hlo : 0x41 ≤ u.toNat) (hhi : u.toNat ≤ 0x5A) :
    upper b = u ↔ b = u ∨ b = u + 0x20#8 := by
  unfold upper
  split_ifs with hlower <;> bv_omega

/-- The letters of the default SEASON_SET, in either case (41_decoder R204). -/
theorem default_season_iff (b : Byte) : (∃ c, c ∈ Config.params.seasonSet ∧ upper b = upper c) ↔
    b = 0x45#8 ∨ b = 0x48#8 ∨ b = 0x65#8 ∨ b = 0x68#8 := by
  have hset : (∃ c, c ∈ Config.params.seasonSet ∧ upper b = upper c) ↔ upper b = 0x45#8 ∨ upper b = 0x48#8 := by
    simp only [Config.params, List.mem_cons, List.not_mem_nil, or_false, exists_eq_or_imp, exists_eq_left,
      show upper 0x45#8 = 0x45#8 by decide, show upper 0x48#8 = 0x48#8 by decide,
      show upper 0x65#8 = 0x45#8 by decide, show upper 0x68#8 = 0x48#8 by decide]
    tauto
  rw [hset, upper_eq_iff (by decide) (by decide), upper_eq_iff (by decide) (by decide)]
  simp only [BitVec.reduceAdd]
  tauto

/-- Settles O45: the bytes after the season letter are the places 1 to 12. -/
theorem timestampShape : Obligations.TimestampShape := ⟨fun _ _ => tShape_iff, default_season_iff⟩

/-! ### Validators of texts -/

theorem allDigitsOfWidth_iff {w : Nat} {t : Text} : allDigitsOfWidth w t = true ↔
    t.length = w ∧ ∀ c, c ∈ t → 0x30 ≤ c.toNat ∧ c.toNat ≤ 0x39 := by
  rw [allDigitsOfWidth, Bool.and_eq_true, decide_eq_true_eq, all_isDigit_iff]

/-- A text accepted under a condition is accepted as it stands. -/
theorem guarded_text_eq_some {c : Prop} [Decidable c] {t : Text} {v : Value} :
    (if c then some (Value.text t) else none) = some v ↔ v = .text t ∧ c := by
  rw [Option.ite_none_right_eq_some, Option.some.injEq, and_comm, eq_comm]

/-- Settles O46: two validators accept everything, the others guard the text by a condition. -/
theorem textFieldsValidated : Obligations.TextFieldsValidated := by
  intro cfg r t1 t2 v
  have always : some (Value.text t1) = some v ↔ v = .text t1 := by rw [Option.some.injEq, eq_comm]
  refine ⟨?_, ?_, always, always, guarded_text_eq_some, guarded_text_eq_some⟩
  · exact guarded_text_eq_some.trans (and_congr_right fun _ => allDigitsOfWidth_iff)
  · exact guarded_text_eq_some.trans (and_congr_right fun _ => allDigitsOfWidth_iff)

/-! ### Validators of numbers -/

theorem withinPercent_iff {pct x base : Nat} : withinPercent pct x base = true ↔
    100 * |(x : Int) - (base : Int)| ≤ (pct : Int) * (base : Int) := by
  rw [withinPercent, decide_eq_true_eq, ← Int.ofNat_le]
  push_cast
  rfl

theorem validateIndex_eq_some {old : Word} {t1 : Text} {v : Value} : validateIndex old t1 = some v ↔
    ∃ x : Word, writesNumber t1 x.toNat ∧ v = .u32 x ∧ old.toNat ≤ x.toNat := by
  simp only [← parseU32_eq_some, validateIndex]
  cases parseU32 t1 with
  | none => simp
  | some x => simp [eq_comm (a := v), and_comm]

theorem validateNonzero_eq_some {t1 : Text} {v : Value} : validateNonzero t1 = some v ↔
    ∃ x : Word, writesNumber t1 x.toNat ∧ v = .u32 x ∧ x ≠ 0 := by
  simp only [← parseU32_eq_some, validateNonzero]
  cases parseU32 t1 with
  | none => simp
  | some x => simp [eq_comm (a := v), and_comm]

theorem validateVoltage_eq_some {cfg : Params} {old : Word} {t1 : Text} {v : Value} :
    validateVoltage cfg old t1 = some v ↔ ∃ x : Word, writesNumber t1 x.toNat ∧ v = .u32 x ∧
      cfg.vFloor < x.toNat ∧ (old = 0 ∨ withinPercent cfg.vRelPct x.toNat old.toNat = true) := by
  simp only [← parseU32_eq_some, validateVoltage]
  cases parseU32 t1 with
  | none => simp
  | some x => simp [eq_comm (a := v), and_comm]

theorem validatePref_eq_some {cfg : Params} {t1 : Text} {v : Value} : validatePref cfg t1 = some v ↔
    ∃ x : Word, writesNumber t1 x.toNat ∧ v = .u32 x ∧ x ≠ cfg.prefForbidden.1 ∧ x ≠ cfg.prefForbidden.2 := by
  simp only [← parseU32_eq_some, validatePref]
  cases parseU32 t1 with
  | none => simp
  | some x => simp [eq_comm (a := v), and_comm]

theorem validatePower_eq_some {cfg : Params} {current voltage : Word} {t1 : Text} {v : Value} :
    validatePower cfg current voltage t1 = some v ↔ ∃ x : Word, writesNumber t1 x.toNat ∧ v = .u32 x ∧
      withinPercent cfg.pRelPct x.toNat (current.toNat * voltage.toNat) = true := by
  simp only [← parseU32_eq_some, validatePower]
  cases parseU32 t1 with
  | none => simp
  | some x => simp [eq_comm (a := v), and_comm]

theorem validateSample_eq_some {cfg : Params} {t1 : Text} {t2 : Option Text} {v : Value} :
    validateSample cfg t1 t2 = some v ↔ ∃ (x : Word) (ts : Text), writesNumber t1 x.toNat ∧ t2 = some ts ∧
      tShape cfg ts = true ∧ v = .sample ⟨x, ts⟩ := by
  simp only [← parseU32_eq_some, validateSample]
  cases parseU32 t1 with
  | none => simp
  | some x =>
    cases t2 with
    | none => simp
    | some ts => simp [eq_comm (a := v)]

/-- A word is 0 exactly when its number is. -/
theorem word_eq_zero_iff {x : Word} : x = 0 ↔ x.toNat = 0 := BitVec.toNat_inj.symm

/-- Settles O47: each validator's condition, in exact integers. -/
theorem numberFieldsValidated : Obligations.NumberFieldsValidated := by
  intro cfg r t1 t2 v
  refine ⟨validateIndex_eq_some, validateIndex_eq_some, ?_, ?_, ?_, validatePref_eq_some, ?_, ?_⟩
  · exact validateNonzero_eq_some.trans (by simp only [ne_eq, word_eq_zero_iff])
  · exact validateNonzero_eq_some.trans (by simp only [ne_eq, word_eq_zero_iff, Nat.pos_iff_ne_zero])
  · exact validateVoltage_eq_some.trans (by simp only [withinPercent_iff, word_eq_zero_iff])
  · exact validatePower_eq_some.trans (by simp only [withinPercent_iff, Nat.cast_mul])
  · rintro f (rfl | rfl | rfl | rfl) <;> exact validateSample_eq_some

end Sys2Proof.Machine

/-! This part: what DECODE does with a pending group (O37 to O41), what a second DECODE of the same group does (O48), which slots
and bits one DECODE can change (O49), and the energy indices under every step (O28). -/

namespace Sys2Proof.Machine

/-! ### UPDATE, by its cases -/

/-- An accepted value equal to the stored one changes nothing (41_decoder R219). -/
theorem updateSlot_same {f : FieldId} {v : Value} {s : State} (h : v = s.record.value f) : updateSlot f v s = s :=
  if_neg fun hn => hn h

/-- Another value is stored in its slot and marked (41_decoder R219). -/
theorem updateSlot_new {f : FieldId} {v : Value} {s : State} (h : v ≠ s.record.value f) (hf : f ≠ .ltarf) :
    updateSlot f v s = markChanged f { s with record := s.record.put f v } := by
  rw [updateSlot, if_pos h]
  exact if_neg hf

/-- Another tariff period goes through PEAKFLIP as well (41_decoder R219, R220). -/
theorem updateSlot_tariff {v : Value} {s : State} (h : v ≠ s.record.value .ltarf) :
    updateSlot .ltarf v s = peakFlip v (markChanged .ltarf { s with record := s.record.put .ltarf v }) := by
  rw [updateSlot, if_pos h]
  rfl

/-- PEAKFLIP leaves the tariff period alone (41_decoder R220). -/
theorem peakFlip_ltarf (v : Value) (s : State) : (peakFlip v s).record.value .ltarf = s.record.value .ltarf := by
  unfold peakFlip
  dsimp only
  split_ifs <;> rfl

/-! ### A group's string, by its cases -/

/-- A value the field's validator accepts goes to UPDATE (41_decoder R200). -/
theorem decodeField_accepted {f : FieldId} {tk : Tokens} {v : Value} {s : State}
    (hv : validate s.cfg s.record f tk.t1 tk.t2 = some v) : decodeField f tk s = updateSlot f v s := by
  rw [decodeField, hv]

/-- A value the field's validator rejects goes to REJECT (41_decoder R200). -/
theorem decodeField_rejected {f : FieldId} {tk : Tokens} {s : State}
    (hv : validate s.cfg s.record f tk.t1 tk.t2 = none) : decodeField f tk s = rejectField f s := by
  rw [decodeField, hv]

/-- Everything REJECT can do (41_decoder R221). -/
theorem rejectField_eq (f : FieldId) (s : State) : rejectField f s = { s with
    events := if s.cfg.logRejects = true then s.events ++ [.logFieldReject f] else s.events } := by
  unfold rejectField
  split_ifs <;> rfl

/-- A tag that the look-up finds goes to its field (41_decoder R200). -/
theorem decodeText_of_field {str : Text} {f : FieldId} {s : State}
    (hf : fieldOfTag s.cfg (tokenize s.cfg.sep str).tag = some f) :
    decodeText str s = decodeField f (tokenize s.cfg.sep str) s := by
  rw [decodeText, hf]

/-- The wire tag of a field goes to that field (41_decoder R200). -/
theorem decodeText_of_tag {str : Text} {f : FieldId} {s : State} (hc : s.cfg.wellFormed = true)
    (hf : isTagOf s.cfg (tokenize s.cfg.sep str).tag f) :
    decodeText str s = decodeField f (tokenize s.cfg.sep str) s :=
  decodeText_of_field ((fieldOfTag_eq_some (params_facts hc).tags_nodup).mpr hf)

/-- A tag in no entry of TAG_NAMES goes to UNKNOWN (41_decoder R202). -/
theorem decodeText_unknown {str : Text} {s : State} (hc : s.cfg.wellFormed = true)
    (hn : (tokenize s.cfg.sep str).tag ∉ s.cfg.tagNames) :
    decodeText str s = unknownTag (tokenize s.cfg.sep str).tag s := by
  rw [decodeText, ((tagMatchesByteForByte _ _ hc).2).mpr hn]

/-- Everything decoding a string can do to the record and the mask: nothing, or UPDATE of the tag's field with a value its
validator gives (41_decoder R200). -/
theorem decodeText_cases (str : Text) (s : State) :
    ((decodeText str s).record = s.record ∧ (decodeText str s).chg = s.chg) ∨
      ∃ f v, fieldOfTag s.cfg (tokenize s.cfg.sep str).tag = some f ∧
        validate s.cfg s.record f (tokenize s.cfg.sep str).t1 (tokenize s.cfg.sep str).t2 = some v ∧
        decodeText str s = updateSlot f v s := by
  cases hf : fieldOfTag s.cfg (tokenize s.cfg.sep str).tag with
  | none =>
    rw [decodeText, hf]
    exact .inl ⟨rfl, rfl⟩
  | some f =>
    rw [decodeText_of_field hf]
    cases hv : validate s.cfg s.record f (tokenize s.cfg.sep str).t1 (tokenize s.cfg.sep str).t2 with
    | none =>
      rw [decodeField_rejected hv, rejectField_eq]
      exact .inl ⟨rfl, rfl⟩
    | some v => exact .inr ⟨f, v, rfl, hv, decodeField_accepted hv⟩

/-- Everything DECODE_OP can do to the record and the mask (41_decoder R200). -/
theorem decodeOp_cases {s t : State} (h : decodeOp s = .ok t) : (t.record = s.record ∧ t.chg = s.chg) ∨
    ∃ f t1 t2 v, validate s.cfg s.record f t1 t2 = some v ∧ t = updateSlot f v { s with decPending := false } := by
  unfold decodeOp at h
  split_ifs at h
  · obtain ⟨str, -, rfl⟩ := map_ok h
    rcases decodeText_cases str { s with decPending := false } with hsame | ⟨f, v, -, hv, he⟩
    · exact .inl hsame
    · exact .inr ⟨f, _, _, v, hv, he⟩
  · cases h
    exact .inl ⟨rfl, rfl⟩

/-- DECODE is DECODE_OP and the way back to READY (41_decoder R222). -/
theorem exec_decode_next {s t : State} :
    exec .decode s = .next t ↔ ∃ v, decodeOp s = .ok v ∧ t = setPhase .ready v := by
  refine ⟨fun h => map_ok (outcomeOf_next.mp h), ?_⟩
  rintro ⟨v, hv, rfl⟩
  show outcomeOf ((decodeOp s).map (setPhase .ready)) = _
  rw [hv]
  rfl

/-! ### One DECODE -/

/-- A state that keeps what a decode keeps is the old one with the fields a decode may write. -/
theorem DecodeKeeps.eq {s t : State} (h : DecodeKeeps s t) :
    t = { s with decPending := t.decPending, record := t.record, chg := t.chg, unkCnt := t.unkCnt,
                 ledPeak := t.ledPeak, ledOffpeak := t.ledOffpeak, events := t.events } := by
  cases s
  cases t
  cases h
  simp only at *
  subst_vars
  rfl

/-- Settles O37: from a state of the invariant DECODE_OP completes, and its frame says the rest. -/
theorem decodeCompletes : Obligations.DecodeCompletes := by
  refine ⟨fun s hp => ?_, fun s h => ?_⟩
  · exact exec_decode_next.mpr ⟨s, by simp [decodeOp, hp], rfl⟩
  · obtain ⟨v, hv, -⟩ := h.decodeOp_completes
    have hpend : v.decPending = false := decodeOp_decPending hv
    refine ⟨setPhase .ready v, exec_decode_next.mpr ⟨v, hv, rfl⟩, hpend, ?_⟩
    calc setPhase .ready v = setPhase .ready _ := congrArg _ (decodeOp_keeps hv).eq
      _ = _ := by rw [hpend]; rfl

/-- Settles O38: the 32-bit counter wraps as the sum modulo 2^32 does. -/
theorem unknownTagCountedAndReported : Obligations.UnknownTagCountedAndReported := by
  intro s str hc hp hn
  refine ⟨s.unkCnt + 1#32, BitVec.toNat_add .., ?_⟩
  rw [execDecode_pending hp, decodeText_unknown (s := { s with decPending := false }) hc hn]
  rfl

/-- Settles O39: REJECT alone runs. -/
theorem rejectedValueOnlyLogged : Obligations.RejectedValueOnlyLogged := by
  intro s str f hc hp hf hv
  rw [execDecode_pending hp, decodeText_of_tag (s := { s with decPending := false }) hc hf,
    decodeField_rejected (s := { s with decPending := false }) hv, rejectField_eq]
  rfl

/-- Settles O40, by the cases of UPDATE. -/
theorem acceptedValueUpdatesSlot : Obligations.AcceptedValueUpdatesSlot := by
  intro s str f v hc hp hf hv
  rw [execDecode_pending hp, decodeText_of_tag (s := { s with decPending := false }) hc hf,
    decodeField_accepted (s := { s with decPending := false }) hv]
  refine ⟨fun hsame => ?_, fun hnew hne => ?_⟩
  · rw [updateSlot_same (s := { s with decPending := false }) hsame]
    rfl
  · refine ⟨s.record.put f v, value_put_of_validate hv, fun g hg => value_put_other _ v hg, ?_⟩
    rw [updateSlot_new (s := { s with decPending := false }) hnew hne]
    rfl

/-- The flip of the peak indicator, as a whole next state (41_decoder R220). -/
theorem setPeak_eq (p : Bool) (s : State) :
    setPeak p s = { s with
      record := { s.record with peak := p }, chg := s.chg ||| changeBit .peak, ledPeak := p, ledOffpeak := !p,
      events := s.events ++ [.gpio .peak p, .gpio .offpeak (!p), .logPeakTransition p] } := by
  have hev : (setPeak p s).events = s.events ++ [.gpio .peak p, .gpio .offpeak (!p), .logPeakTransition p] := by
    simp [setPeak]
  rw [← hev]
  rfl

/-- Settles O41: the accepted literal goes through UPDATE into PEAKFLIP, which flips exactly when the indicator differs. -/
theorem tariffPeriodFlipsPeak : Obligations.TariffPeriodFlipsPeak := by
  intro s str p hc hp hf hlit hnew hpeak
  have hv : validate s.cfg s.record .ltarf (tokenize s.cfg.sep str).t1 (tokenize s.cfg.sep str).t2 =
      some (.text (tokenize s.cfg.sep str).t1) := if_pos hlit
  have hne : Value.text (tokenize s.cfg.sep str).t1 ≠ s.record.value .ltarf := fun he => hnew (Value.text.inj he)
  rw [execDecode_pending hp, decodeText_of_tag (s := { s with decPending := false }) hc hf,
    decodeField_accepted (s := { s with decPending := false }) hv,
    updateSlot_tariff (s := { s with decPending := false }) hne, peakFlip_eq (p := p) (by simpa using hpeak)]
  refine ⟨fun hstay => ?_, fun hflip => ?_⟩
  · rw [if_neg (fun hn => hn hstay)]
    rfl
  · have hbits : s.chg ||| changeBit .ltarf ||| changeBit .peak = s.chg ||| 0x20010#18 := BitVec.or_assoc ..
    rw [if_pos (by exact hflip), setPeak_eq, markChanged_chg, hbits]
    rfl

/-! ### The same group twice -/

/-- After UPDATE the slot holds the value, be it new or the one already stored (41_decoder R219). -/
theorem updateSlot_value {f : FieldId} {v : Value} {s : State} (hv : ∀ r : Record, (r.put f v).value f = v) :
    (updateSlot f v s).record.value f = v := by
  by_cases hsame : v = s.record.value f
  · rw [updateSlot_same hsame, ← hsame]
  · by_cases hf : f = .ltarf
    · subst hf
      rw [updateSlot_tariff hsame, peakFlip_ltarf]
      exact hv s.record
    · rw [updateSlot_new hsame hf]
      exact hv s.record

/-- Decoding a string again, from any state with the parameters and with the record the first left, changes neither the record
nor the mask (41_decoder R223 item 1): what the first rejected is rejected again, and what it accepted is the value stored. -/
theorem decodeText_twice {str : Text} {s u : State} (hcfg : u.cfg = s.cfg) (hrec : u.record = (decodeText str s).record) :
    (decodeText str u).record = u.record ∧ (decodeText str u).chg = u.chg := by
  rcases decodeText_cases str u with hsame | ⟨f, w, hf, hw, he⟩
  · exact hsame
  · rw [hcfg] at hf hw
    rw [decodeText_of_field hf] at hrec
    have hstored : w = u.record.value f := by
      cases hv : validate s.cfg s.record f (tokenize s.cfg.sep str).t1 (tokenize s.cfg.sep str).t2 with
      | none =>
        rw [decodeField_rejected hv, rejectField_eq] at hrec
        rw [hrec, hv] at hw
        cases hw
      | some v =>
        rw [decodeField_accepted hv] at hrec
        rw [hrec, updateSlot_value fun _ => value_put_of_validate hv]
        exact validate_unique hv hw
    rw [he, updateSlot_same hstored]
    exact ⟨rfl, rfl⟩

/-- A group is pending wherever the pending flag is set with the same cells, roles and parameters (41_decoder R200). -/
theorem pendingGroup_of_eq {s t : State} {str : Text} (h : pendingGroup s str) (hd : t.decPending = true)
    (hcfg : t.cfg = s.cfg) (hmem : t.mem = s.mem) (hsel : t.rxSel = s.rxSel) : pendingGroup t str := by
  obtain ⟨-, hlen, hstr⟩ := h
  refine ⟨hd, hcfg ▸ hlen, ?_⟩
  unfold holdsCstr holdsBytes cell at hstr ⊢
  rwa [hmem, hcfg, hsel]

/-- Settles O48: the second decode reads the same string and finds the record the first left. -/
theorem sameGroupTwiceChangesNothing : Obligations.SameGroupTwiceChangesNothing := by
  intro s t str _ hp h
  rw [execDecode_pending hp] at h
  cases h
  have k := decodeText_keeps str { s with decPending := false }
  have hagain := pendingGroup_of_eq hp (t := { setPhase .ready (decodeText str { s with decPending := false }) with
    decPending := true, chg := 0 }) rfl k.cfg k.mem k.rxSel
  obtain ⟨hr, hc⟩ := decodeText_twice (str := str) (s := { s with decPending := false })
    (u := { setPhase .ready (decodeText str { s with decPending := false }) with decPending := false, chg := 0 })
    k.cfg rfl
  exact ⟨_, execDecode_pending hagain, hc, hr⟩

/-! ### What one DECODE can change -/

/-- UPDATE of a field leaves every other slot of the fields 0 to 16, and its bit, as they were (41_decoder R223 item 3). -/
theorem updateSlot_others {f g : FieldId} (v : Value) (s : State) (hg : g ≠ f) (hp : g ≠ .peak) :
    (updateSlot f v s).record.value g = s.record.value g ∧
      (updateSlot f v s).chg.getLsbD g.index = s.chg.getLsbD g.index := by
  have hput : (s.record.put f v).value g = s.record.value g := value_put_other _ v hg
  rcases updateSlot_cases f v s with ⟨hc, hr⟩ | ⟨-, hc, hr⟩ | ⟨-, -, hc, p, -, hr⟩
  · rw [hc, hr]
    exact ⟨rfl, rfl⟩
  · rw [hc, hr]
    exact ⟨hput, by simp [changeBit_getLsbD, hg.symm]⟩
  · rw [hc, hr]
    exact ⟨(value_put_other (s.record.put f v) (.bool p) hp).trans hput, by simp [changeBit_getLsbD, hg.symm, hp.symm]⟩

/-- UPDATE with a validated value touches the peak indicator and bit 17 only together with the tariff period
(41_decoder R220). -/
theorem updateSlot_peak {f : FieldId} {v : Value} {s : State} (hf : f ≠ .peak)
    (hv : ∀ r : Record, (r.put f v).value f = v)
    (h : (updateSlot f v s).record.peak ≠ s.record.peak ∨ (updateSlot f v s).chg.getLsbD 17 ≠ s.chg.getLsbD 17) :
    (updateSlot f v s).record.ltarf ≠ s.record.ltarf := by
  rcases updateSlot_cases f v s with ⟨hc, hr⟩ | ⟨-, hc, hr⟩ | ⟨hn, rfl, -, p, -, hr⟩
  · rw [hc, hr] at h
    exact absurd h (by simp)
  · have hpeak : (s.record.put f v).peak = s.record.peak := Value.bool.inj (value_put_other s.record v hf.symm)
    have hbit : (changeBit f).getLsbD 17 = false := (changeBit_getLsbD f .peak).trans (decide_eq_false hf)
    rw [hc, hr, hpeak, BitVec.getLsbD_or, hbit, Bool.or_false] at h
    exact absurd h (by simp)
  · rw [hr]
    intro he
    exact hn ((hv s.record).symm.trans (congrArg Value.text he))

/-- The peak indicator has no validator (41_decoder R205). -/
theorem ne_peak_of_validate {cfg : Params} {r : Record} {f : FieldId} {t1 : Text} {t2 : Option Text} {v : Value}
    (h : validate cfg r f t1 t2 = some v) : f ≠ .peak := by
  rintro rfl
  cases h

/-- Settles O49: a decode that changes the record or the mask is an UPDATE of one field with a validated value. -/
theorem decodeChangesAtMostOneWireField : Obligations.DecodeChangesAtMostOneWireField := by
  intro s t h
  obtain ⟨u, hu, rfl⟩ := exec_decode_next.mp h
  rcases decodeOp_cases hu with ⟨hr, hc⟩ | ⟨f, t1, t2, v, hv, rfl⟩
  · rw [setPhase_record, setPhase_chg, hr, hc]
    exact ⟨⟨.adsc, by decide, fun g _ _ => ⟨rfl, rfl⟩⟩, fun hn => absurd hn (by simp)⟩
  · have hf := ne_peak_of_validate hv
    exact ⟨⟨f, hf, fun g hg hp => updateSlot_others v _ hg hp⟩, updateSlot_peak hf fun _ => value_put_of_validate hv⟩

/-! ### The energy indices -/

/-- The record `q` holds at least what `r` holds in the two energy indices (41_decoder R211). -/
def EnergyLe (r q : Record) : Prop := r.easf01.toNat ≤ q.easf01.toNat ∧ r.easf02.toNat ≤ q.easf02.toNat

theorem EnergyLe.of_eq {r q : Record} (h : q = r) : EnergyLe r q := h ▸ ⟨le_rfl, le_rfl⟩

/-- A validated value put into its slot lowers no energy index: the validator of an index asks for at least the stored value
(41_decoder R211), and any other field leaves both as they are. -/
theorem energyLe_put {cfg : Params} {r : Record} {f : FieldId} {t1 : Text} {t2 : Option Text} {v : Value}
    (h : validate cfg r f t1 t2 = some v) : EnergyLe r (r.put f v) := by
  have other : ∀ g, g ≠ f → (r.put f v).value g = r.value g := fun g hg => value_put_other r v hg
  by_cases h1 : f = .easf01
  · subst h1
    obtain ⟨x, -, rfl, hx⟩ := validateIndex_eq_some.mp h
    exact ⟨hx, le_rfl⟩
  by_cases h2 : f = .easf02
  · subst h2
    obtain ⟨x, -, rfl, hx⟩ := validateIndex_eq_some.mp h
    exact ⟨le_rfl, hx⟩
  · have e1 : (r.put f v).easf01 = r.easf01 := Value.u32.inj (other .easf01 (Ne.symm h1))
    have e2 : (r.put f v).easf02 = r.easf02 := Value.u32.inj (other .easf02 (Ne.symm h2))
    exact ⟨e1 ▸ le_rfl, e2 ▸ le_rfl⟩

/-- DECODE_OP lowers no energy index (41_decoder R223 item 2). -/
theorem decodeOp_energyLe {s t : State} (h : decodeOp s = .ok t) : EnergyLe s.record t.record := by
  rcases decodeOp_cases h with ⟨hr, -⟩ | ⟨f, t1, t2, v, hv, rfl⟩
  · exact .of_eq hr
  · have hput : EnergyLe s.record (s.record.put f v) := energyLe_put hv
    rcases updateSlot_cases f v { s with decPending := false } with ⟨-, hr⟩ | ⟨-, -, hr⟩ | ⟨-, -, -, p, -, hr⟩
    · exact .of_eq hr
    · exact hr ▸ hput
    · exact hr ▸ hput

/-- Nothing but a decode writes the record, and no microstep lowers an energy index. -/
theorem Microstep.energyLe {s t : State} (h : Microstep s t) : EnergyLe s.record t.record := by
  cases h with
  | phaseOnly p => exact .of_eq rfl
  | byte b v hb hv => exact .of_eq (rxStep_keeps hv).record
  | queued b q p v hq hp hv => exact .of_eq (rxStep_keeps hv).record
  | decode p v hp hv =>
    rw [setPhase_record]
    exact decodeOp_energyLe hv
  | poll u p hp => exact .of_eq (tPoll_keeps u s).record
  | slot u x => exact .of_eq rfl
  | misuse u r => exact .of_eq rfl

/-- Settles O28: of the environment steps RESET alone writes the record. -/
theorem energyIndicesNeverFall : Obligations.EnergyIndicesNeverFall := by
  intro s t h hn
  rcases step_cases h with ⟨-, ts, hm⟩ | ⟨a, ts, hts, rfl⟩
  · exact hm.energyLe
  · have ha : a ≠ .reset := fun he => hn ⟨ts, he ▸ hts⟩
    obtain ⟨-, -, -, -, -, hr, -⟩ := envStep_keeps { s with turns := ts } ha
    exact EnergyLe.of_eq hr

end Sys2Proof.Machine

/-! Proofs of the family 42_softtimer. The timer commands' writes to one slot (O50, O51, O52), the poll of one slot (O53), elapsed
time (O55), time zero (O56), and TPOLLALL as a sequence of TPOLLs (O54). -/

namespace Sys2Proof.Machine

/-! ### One slot -/

/-- A start that has the value written to it already is left as it is. -/
theorem setStart_self {t : TimerId} {v : Word} {s : State} (h : (timer s t).start = v) : setStart t v s = s := by
  subst h
  show setTimer t (timer s t) s = s
  rw [setTimer, timer, set_get_self]

/-- The start of a slot after 0 is written to it; in a slot the bank does not have it was 0 before. -/
theorem timer_setStart_zero (t : TimerId) (s : State) : (timer (setStart t 0 s) t).start = 0 := by
  show ((s.tmr.set t { timer s t with start := 0 }).get t).start = 0
  by_cases hb : s.tmr.has t
  · rw [get_set_same _ _ hb]
  · rw [get_set, if_neg fun h => hb h.2, get_absent _ hb]
    rfl

/-- A command that answers with a write of one slot the bank has changes that slot alone, and the phase. -/
theorem exec_slotBecomes {i : Instr} {s : State} {t : TimerId} {x : SoftTimer}
    (hi : exec i s = .next (setPhase .ready (setTimer t x s))) (h : s.tmr.has t) :
    ∃ m, exec i s = .next { s with phase := .ready, tmr := m } ∧ slotBecomes s.tmr t x m :=
  ⟨_, hi, set_slotBecomes h x⟩

/-! ### The commands that write one slot -/

/-- Settles O50: T_CONFIGURE is one write of the slot, with DATA reduced to the clock's width. -/
theorem tcfgConfiguresOneSlot : Obligations.TcfgConfiguresOneSlot := by
  intro s t rep cben hc hb
  obtain ⟨m, hm, hs⟩ := exec_slotBecomes (i := .tcfg t rep cben) rfl hb
  exact ⟨delayOperand s, m, hm, clockOf_toNat (params_facts hc).clock_le _, hs⟩

/-- T_START of a timer with no delay (42_softtimer R263). -/
theorem tStart_zeroDelay {t : TimerId} {s : State} (h : (timer s t).delay = 0) :
    tStart t s = emit (.logTimerMisuse t .zeroDelay) s := if_pos h

/-- T_START of an armed timer with a delay (42_softtimer R263). -/
theorem tStart_armed {t : TimerId} {s : State} (hd : (timer s t).delay ≠ 0) (hs : (timer s t).start ≠ 0) :
    tStart t s = emit (.logTimerMisuse t .alreadyArmed) s := by
  rw [tStart, if_neg hd, if_pos hs]

/-- T_START of a stopped timer with a delay (42_softtimer R263). -/
theorem tStart_stopped {t : TimerId} {s : State} (hd : (timer s t).delay ≠ 0) (hs : (timer s t).start = 0) :
    tStart t s = setStart t s.now s := by
  rw [tStart, if_neg hd, if_neg (not_not.mpr hs)]

theorem exec_tstart (t : TimerId) (s : State) : exec (.tstart t) s = .next (setPhase .ready (tStart t s)) := rfl

/-- Settles O51, by the three cases of T_START; a timer with a delay stands in a slot the bank has. -/
theorem tstartChecksThenArms : Obligations.TstartChecksThenArms := by
  intro s t
  refine ⟨fun hd => ?_, fun hd hs => ?_, fun hd hs => ?_⟩
  · rw [exec_tstart, tStart_zeroDelay hd]
    rfl
  · rw [exec_tstart, tStart_armed hd hs]
    rfl
  · have hx : exec (.tstart t) s = .next (setPhase .ready (setStart t s.now s)) := by rw [exec_tstart, tStart_stopped hd hs]
    exact exec_slotBecomes hx (has_of_timer (.inl hd))

/-- Settles O52: both commands are one write of the slot. -/
theorem trestartAndTstopSetTheStart : Obligations.TrestartAndTstopSetTheStart :=
  fun _ _ hb => ⟨exec_slotBecomes rfl hb, exec_slotBecomes rfl hb⟩

/-! ### The poll of one slot -/

theorem exec_tpoll (t : TimerId) (s : State) : exec (.tpoll t) s = .next (setPhase .ready (tPoll t s)) := rfl

/-- T_POLL of a timer that is not due in the integers of 42_softtimer R266. -/
theorem tPoll_of_not_isDue {s : State} {t : TimerId} (hc : s.cfg.clockBits ≤ 32) (h : ¬isDue s t) : tPoll t s = s :=
  tPoll_not_due (Bool.eq_false_iff.mpr fun hd => h ((timerDue_iff hc t).mp hd))

/-- T_POLL of a due timer whose callback is disabled (42_softtimer R266). -/
theorem tPoll_of_isDue_silent {s : State} {t : TimerId} (hc : s.cfg.clockBits ≤ 32) (h : isDue s t)
    (hcb : (timer s t).cben = false) : tPoll t s = setStart t (startAfterFiring s t) s := by
  rw [tPoll_eq, if_pos ((timerDue_iff hc t).mpr h), if_neg (by simp [hcb])]

/-- Settles O53: a due timer is armed, so it stands in a slot the bank has. -/
theorem tpollFiresOnlyWhenDue : Obligations.TpollFiresOnlyWhenDue := by
  intro s t hcfg
  have hc := (params_facts hcfg).clock_le
  refine ⟨fun hn => ?_, fun hd hcb => ?_⟩
  · rw [exec_tpoll, tPoll_of_not_isDue hc hn]
    rfl
  · have hx : exec (.tpoll t) s = .next (setPhase .ready (setStart t (startAfterFiring s t) s)) := by
      rw [exec_tpoll, tPoll_of_isDue_silent hc hd hcb]
    exact exec_slotBecomes hx (has_of_timer (.inr hd.1))

/-! ### Elapsed time -/

/-- Settles O55: `start + d` less `start` is `d` modulo `2^CLOCK_BITS`, and the model's word has the value of the integer. -/
theorem elapsedTimeAcrossWrap : Obligations.ElapsedTimeAcrossWrap := by
  intro s t d hcfg _ hd hnow
  have hc := (params_facts hcfg).clock_le
  have hms : elapsedMs s t = d := by
    have hn : s.now.toNat = ((timer s t).start.toNat + d) % 2 ^ s.cfg.clockBits := by
      rw [hnow]
      exact clockOf_toNat hc _
    rw [elapsedMs, hn]
    push_cast
    rw [Int.emod_sub_emod, add_sub_cancel_left]
    exact Int.emod_eq_of_lt (Int.natCast_nonneg d) (by exact_mod_cast hd)
  have he : ((elapsed s t).toNat : Int) = elapsedMs s t := wsub_toNat hc ..
  exact ⟨by exact_mod_cast he.trans hms, hms⟩

/-! ### Time zero -/

/-- Settles O56: at clock value 0 each of the three writes 0 to the start. -/
theorem timeZeroLeavesTimerStopped : Obligations.TimeZeroLeavesTimerStopped := by
  intro s t hcfg hnow
  refine ⟨fun hd hs => ?_, ⟨_, rfl, ?_, rfl⟩, fun hd hrep hcb => ?_⟩
  · rw [exec_tstart, tStart_stopped hd hs, setStart_self (hs.trans hnow.symm)]
    rfl
  · show (timer (setStart t s.now s) t).start = 0
    rw [hnow]
    exact timer_setStart_zero t s
  · have hz : startAfterFiring s t = 0 := (if_pos hrep).trans hnow
    rw [exec_tpoll, tPoll_of_isDue_silent (params_facts hcfg).clock_le hd hcb, hz]
    exact ⟨_, rfl, timer_setStart_zero t s, rfl⟩

/-! ### A poll does not look at the phase -/

theorem setPhase_self {p : Phase} {s : State} (h : s.phase = p) : setPhase p s = s := by
  subst h
  rfl

theorem callback_setPhase (t : TimerId) (p : Phase) (s : State) :
    callback t (setPhase p s) = setPhase p (callback t s) := by
  cases t with
  | wdog =>
    show classify false (setPhase p s) = setPhase p (classify false s)
    rw [classify_eq, classify_eq]
    rfl
  | _ => rfl

theorem tPoll_setPhase (t : TimerId) (p : Phase) (s : State) : tPoll t (setPhase p s) = setPhase p (tPoll t s) := by
  have hdue : timerDue (setPhase p s) t = timerDue s t := rfl
  have htimer : timer (setPhase p s) t = timer s t := rfl
  have hset : setStart t (startAfterFiring (setPhase p s) t) (setPhase p s) =
      setPhase p (setStart t (startAfterFiring s t) s) := rfl
  rw [tPoll_eq, tPoll_eq, hdue, htimer, hset, callback_setPhase]
  split_ifs <;> rfl

/-! ### TPOLLALL -/

/-- The slot after `t` (45_control R321). -/
theorem next_of_lt {t v : TimerId} {n : Nat} (hv : v.index = t.index + 1) (hn : v.index < n) : t.next n = some v := by
  rw [eq_ofIndex hv, TimerId.next, if_pos (hv ▸ hn)]

/-- No slot follows the last one (45_control R321). -/
theorem next_of_le {t : TimerId} {n : Nat} (h : n ≤ t.index + 1) : t.next n = none := if_neg (Nat.not_lt.mpr h)

theorem pollTimerStep_next {toPhase : TimerId → Phase} {t v : TimerId} {s : State} (hv : v.index = t.index + 1)
    (hn : v.index < s.cfg.nTimers) : pollTimerStep toPhase t s = setPhase (toPhase v) (tPoll t s) := by
  rw [pollTimerStep, next_of_lt hv hn]

theorem pollTimerStep_last {toPhase : TimerId → Phase} {t : TimerId} {s : State} (h : s.cfg.nTimers ≤ t.index + 1) :
    pollTimerStep toPhase t s = setPhase .ready (tPoll t s) := by
  rw [pollTimerStep, next_of_le h]

/-- TPOLLALL's microstep in TPA(t) (42_softtimer R267). -/
theorem exec_tpollall {s : State} {t : TimerId} (h : s.phase = .tpa t) :
    exec .tpollall s = .next (pollTimerStep .tpa t s) := by
  show Host.Outcome.next (pollTimerStep .tpa (tpollallSlot s) s) = _
  rw [tpollallSlot, h]

/-- The state TPOLL leaves (`exec_tpoll`). -/
def polled (t : TimerId) (s : State) : State := setPhase .ready (tPoll t s)

theorem polled_cfg (t : TimerId) (s : State) : (polled t s).cfg = s.cfg := (tPoll_keeps t s).cfg

theorem polled_turns (t : TimerId) (s : State) : (polled t s).turns = s.turns := (tPoll_keeps t s).turns

/-- The state after TPOLL of `k` slots from slot `i` on, in ascending order. -/
def polledFrom : Nat → Nat → State → State
  | _, 0, s => s
  | i, k + 1, s => polledFrom (i + 1) k (polled (.ofIndex i) s)

/-- With no environment step to come, a step in TPA(t) is TPOLLALL's microstep. -/
theorem step_tpa {s : State} (t : TimerId) (h : s.turns = []) :
    step (setPhase (.tpa t) s) = .next (pollTimerStep .tpa t (setPhase (.tpa t) s)) := by
  rw [step, setPhase_turns, h]
  exact exec_tpollall rfl

theorem step_tpa_next {s : State} {t v : TimerId} (h : s.turns = []) (hv : v.index = t.index + 1)
    (hn : v.index < s.cfg.nTimers) : step (setPhase (.tpa t) s) = .next (setPhase (.tpa v) (polled t s)) := by
  rw [step_tpa t h, pollTimerStep_next (s := setPhase (.tpa t) s) hv hn, tPoll_setPhase]
  rfl

theorem step_tpa_last {s : State} {t : TimerId} (h : s.turns = []) (hn : s.cfg.nTimers ≤ t.index + 1) :
    step (setPhase (.tpa t) s) = .next (polled t s) := by
  rw [step_tpa t h, pollTimerStep_last (s := setPhase (.tpa t) s) hn, tPoll_setPhase]
  rfl

/-- From TPA of slot `i`, with no environment step to come, the steps of TPOLLALL are TPOLL of the slots from `i` on, for any
number of slots; by induction on how many follow slot `i`. -/
theorem runSteps_tpa (k : Nat) {i : Nat} {s : State} (hk : i + (k + 1) = s.cfg.nTimers) (h : s.turns = []) :
    runSteps (k + 1) (setPhase (.tpa (.ofIndex i)) s) = .next (polledFrom i (k + 1) s) := by
  induction k generalizing i s with
  | zero =>
    have hlast : s.cfg.nTimers ≤ (TimerId.ofIndex i).index + 1 := by rw [index_ofIndex, ← hk]
    rw [runSteps, step_tpa_last h hlast]
    rfl
  | succ k ih =>
    have hnext : (TimerId.ofIndex (i + 1)).index = (TimerId.ofIndex i).index + 1 := by simp
    have hlt : (TimerId.ofIndex (i + 1)).index < s.cfg.nTimers := by
      rw [index_ofIndex]
      omega
    have hk' : i + 1 + (k + 1) = (polled (.ofIndex i) s).cfg.nTimers := by
      rw [polled_cfg]
      omega
    rw [runSteps, step_tpa_next h hnext hlt]
    exact ih hk' ((polled_turns _ s).trans h)

/-- Settles O54: one microstep polls its slot and moves on; five of them are `runSteps_tpa` from slot 0. -/
theorem tpollallPollsEverySlotInOrder : Obligations.TpollallPollsEverySlotInOrder := by
  refine ⟨fun s t hp => ⟨polled t s, exec_tpoll t s, fun v hv hn => ?_, fun hn => ?_⟩, fun s hn hp hts => ?_⟩
  · rw [exec_tpollall hp, pollTimerStep_next hv hn]
    rfl
  · rw [exec_tpollall hp, pollTimerStep_last hn]
    rfl
  · have hrun : runSteps 5 s = .next (polledFrom 0 5 s) := by
      have h := runSteps_tpa 4 (i := 0) hn.symm hts
      rwa [show TimerId.ofIndex 0 = .minp from rfl, setPhase_self hp] at h
    exact ⟨_, _, _, _, _, rfl, rfl, rfl, rfl, rfl, hrun, rfl⟩

end Sys2Proof.Machine

/-! Proofs of the family 43_report. The poll of a timer that runs its callback, and what the two report timers publish (O57,
O58). -/

namespace Sys2Proof.Machine

/-! ### The events of a report -/

/-- The list of all fields is in the order of the field ids. -/
theorem allFields_getElem? (f : FieldId) : allFields[f.index]? = some f := by
  by_cases hp : f = .peak
  · subst hp
    rfl
  · have hw : wireFields[f.index]? = some f := (wireFields_getElem? f f.index).mpr ⟨hp, rfl⟩
    rw [allFields, List.getElem?_append_left (List.getElem?_eq_some_iff.mp hw).1, hw]

/-- A field in the list published has its event at the field's place. -/
theorem publishEvents_getElem? {s : State} {fs : List FieldId} {i : Nat} {f : FieldId} (h : fs[i]? = some f) :
    (publishEvents s fs)[i]? = some (.publish f (s.record.value f)) := by
  rw [publishEvents, List.getElem?_map, h]
  rfl

/-- REPORT_MIN with no change bit set does nothing (43_report R290, R294 item 2). -/
theorem reportMin_of_chg_zero {s : State} (h : s.chg = 0) : reportMin s = s := by
  have hnone : allFields.filter (isChanged s) = [] := by
    refine List.filter_eq_nil_iff.mpr fun f _ => ?_
    rw [isChanged, h]
    simp
  rw [reportMin, hnone, publishEvents, List.map_nil, List.append_nil, ← h]

/-! ### The poll of a report timer -/

/-- T_POLL of a due timer whose callback is enabled: the timer's own update, then the callback (42_softtimer R266). -/
theorem tPoll_of_isDue_callback {s : State} {t : TimerId} (hc : s.cfg.clockBits ≤ 32) (h : isDue s t)
    (hcb : (timer s t).cben = true) : tPoll t s = callback t (setStart t (startAfterFiring s t) s) := by
  rw [tPoll_eq, if_pos ((timerDue_iff hc t).mpr h), if_pos hcb]

/-- With no change bit set a poll of timer 0, due or not, publishes nothing and leaves the mask clear. -/
theorem tPoll_minp_of_chg_zero {s : State} (h : s.chg = 0) :
    (tPoll .minp s).events = s.events ∧ (tPoll .minp s).chg = 0 := by
  have hcb : callback .minp (setStart .minp (startAfterFiring s .minp) s) =
      setStart .minp (startAfterFiring s .minp) s := reportMin_of_chg_zero h
  rw [tPoll_eq, hcb]
  split_ifs <;> exact ⟨rfl, h⟩

/-- Settles O57: the poll re-arms slot 0 and then runs REPORT_MIN, which filters the list of all fields and so keeps its order. -/
theorem reportMinPublishesChangedFields : Obligations.ReportMinPublishesChangedFields := by
  intro s hcfg hd hcb
  refine ⟨?_, by decide⟩
  rw [exec_tpoll, tPoll_of_isDue_callback (params_facts hcfg).clock_le hd hcb]
  rfl

/-- Settles O58: the poll re-arms slot 1 and then runs REPORT_MAX over all fields; the mask it clears leaves the poll of
timer 0 nothing to publish. -/
theorem reportMaxPublishesEveryField : Obligations.ReportMaxPublishesEveryField := by
  intro s hcfg hd hcb
  refine ⟨_, publishEvents s allFields, ?_, rfl, rfl, fun f => publishEvents_getElem? (allFields_getElem? f),
    _, exec_tpoll .minp _, tPoll_minp_of_chg_zero rfl⟩
  rw [exec_tpoll, tPoll_of_isDue_callback (params_facts hcfg).clock_le hd hcb]
  rfl

end Sys2Proof.Machine

/-! Proofs of the family 44_health. What a microstep can do to the health class (O24), and the poll of the three timers of the
health monitor (O59, O60). -/

namespace Sys2Proof.Machine

/-! ### The health class -/

/-- A byte other than EOF measures no frame, so the class stays (40_receiver R160). -/
theorem rxStep_healthy {b : Byte} {s t : State} (h : rxStep b s = .ok t) (hb : b ≠ s.cfg.eof) : t.healthy = s.healthy := by
  obtain ⟨-, -, hmeasure⟩ := rxStep_flags h
  obtain ⟨-, hhealthy, -⟩ := hmeasure hb
  exact hhealthy

/-- A microstep from a legal phase keeps the health class, or it is one of the two that classify: EOF handed to the receiver,
or a poll of timer 4 when it is due (44_health R300, R304). -/
theorem Microstep.healthy_cases {s t : State} (hok : s.phase.ok s.cfg.nTimers = true) (h : Microstep s t) :
    t.healthy = s.healthy ∨ takesByte s s.cfg.eof ∨ (pollsTimer s .wdog ∧ isDue s .wdog) := by
  have hne : s.phase.ok s.cfg.nTimers ≠ false := by simp [hok]
  cases h with
  | phaseOnly p => exact .inl rfl
  | byte b v hb hv =>
    by_cases he : b = s.cfg.eof
    · exact .inr (.inl (.inl (he ▸ hb.resolve_right hne)))
    · exact .inl (rxStep_healthy hv he :)
  | queued b q p v hq hp hv =>
    by_cases he : b = s.cfg.eof
    · exact .inr (.inl (.inr ⟨(or_assoc.mpr hp).resolve_right hne, by rw [hq, he, List.head?_cons]⟩))
    · exact .inl (rxStep_healthy hv he :)
  | decode p v hp hv => exact .inl (decodeOp_keeps hv).healthy
  | poll u p hp =>
    by_cases hu : u = .wdog
    · subst hu
      cases hdue : timerDue s .wdog with
      | false => exact .inl (by rw [setPhase_healthy, tPoll_not_due hdue])
      | true => exact .inr (.inr ⟨hp.resolve_right hne, isDue_of_timerDue hdue⟩)
    · exact .inl ((tPoll_other u s).1 hu)
  | slot u x => exact .inl rfl
  | misuse u r => exact .inl rfl

/-- Settles O24, by the cases of a microstep; of the environment steps RESET alone touches the health class. -/
theorem healthChangesOnlyByClassification : Obligations.HealthChangesOnlyByClassification := by
  intro s t hok h hn
  rcases step_cases h with ⟨hb, ts, hm⟩ | ⟨a, ts, hts, rfl⟩
  · exact .inr ⟨hb, (Microstep.healthy_cases (s := { s with turns := ts }) hok hm).resolve_left hn⟩
  · refine .inl ⟨ts, ?_⟩
    by_contra ha
    obtain ⟨-, -, -, -, hkeep, -⟩ := envStep_keeps { s with turns := ts } (a := a) fun he => ha (he ▸ hts)
    exact hn hkeep

/-! ### The poll of a timer of the health monitor -/

/-- TPOLL of a due timer whose callback is enabled (42_softtimer R266). -/
theorem exec_tpoll_of_isDue_callback {s : State} {t : TimerId} (hcfg : s.cfg.wellFormed = true) (h : isDue s t)
    (hcb : (timer s t).cben = true) :
    exec (.tpoll t) s = .next (setPhase .ready (callback t (setStart t (startAfterFiring s t) s))) := by
  rw [exec_tpoll, tPoll_of_isDue_callback (params_facts hcfg).clock_le h hcb]

/-- Settles O59: after the timer's own update each callback is one write of the health LED, and STATUS_BLINK restarts timer 3
besides. -/
theorem blinkTimersDriveTheHealthLed : Obligations.BlinkTimersDriveTheHealthLed :=
  fun _ hcfg => ⟨exec_tpoll_of_isDue_callback hcfg, exec_tpoll_of_isDue_callback hcfg⟩

/-- WATCHDOG in a healthy block (44_health R301, R304). -/
theorem watchdog_of_healthy {s : State} (h : s.healthy = true) : watchdog s = { s with
    healthy := false
    tmr := { s.tmr with
      stat := { s.tmr.stat with delay := s.cfg.blinkFastMs, start := s.now }
      wdog := { s.tmr.wdog with start := 0 } } } := by
  rw [watchdog, classify_eq, h]
  rfl

/-- WATCHDOG in a degraded block stops its timer and does nothing else (44_health R301, R304). -/
theorem watchdog_of_degraded {s : State} (h : s.healthy = false) : watchdog s = setStart .wdog 0 s := by
  rw [watchdog, classify, if_neg (not_not.mpr h.symm)]
  rfl

/-- Settles O60: CLASSIFY writes the start of timer 4 after the timer's own update has, so the re-arm does not last. -/
theorem watchdogForcesDegraded : Obligations.WatchdogForcesDegraded := by
  intro s hcfg hd hcb
  rw [exec_tpoll_of_isDue_callback hcfg hd hcb, callback]
  refine ⟨fun hh => ?_, fun hh => ?_⟩
  · rw [watchdog_of_healthy (by exact hh)]
    rfl
  · rw [watchdog_of_degraded (by exact hh)]
    rfl

end Sys2Proof.Machine

/-! Proofs of the family 45_control. This part: a step by whose turn it is, and the CMD write (O5, O6, O7), with the two
environment steps of the queue and the clock (O11, O12). -/

namespace Sys2Proof.Machine

/-! ### A step by whose turn it is -/

theorem step_unlisted {s : State} (h : s.turns = []) : step s = microstep s := by rw [step, h]

theorem step_block {s : State} {ts : List Turn} (h : s.turns = .block :: ts) : step s = microstep { s with turns := ts } := by
  rw [step, h]

theorem step_env {s : State} {a : EnvAction} {ts : List Turn} (h : s.turns = .env a :: ts) :
    step s = .next (envStep a { s with turns := ts }) := by
  rw [step, h]

/-- With the block's turn put first, a step is a microstep that leaves the other turns as they were listed. -/
theorem step_blockFirst (s : State) : step { s with turns := blockFirst s.turns } = microstep s := by
  have same : ∀ {ts}, s.turns = ts → { s with turns := ts } = s := by
    rintro _ rfl
    rfl
  cases hts : s.turns with
  | nil => exact (step_unlisted rfl).trans (congrArg microstep (same hts))
  | cons t ts => exact (step_block rfl).trans (congrArg microstep (same hts))

theorem microstep_busy {s : State} {i : Instr} (h : s.phase.command = some i) : microstep s = exec i s := by
  rw [microstep, h]

theorem microstep_ready {s : State} (h : s.phase = .ready) : microstep s = .next s := by
  rw [microstep, h]
  rfl

theorem ne_ready_of_command {p : Phase} {i : Instr} (h : p.command = some i) : p ≠ .ready := by
  rintro rfl
  cases h

/-! ### The CMD write -/

/-- An accepted command is the one in progress (45_control R320). -/
theorem acceptPhase_command (i : Instr) : (acceptPhase i).command = some i := by cases i <;> rfl

theorem cmdWrite_busy {s : State} (w : Word) (h : s.phase ≠ .ready) : cmdWrite w s = { s with cmdErr := true } := if_pos h

theorem cmdWrite_ready {s : State} (w : Word) (h : s.phase = .ready) : cmdWrite w s = submit w s := if_neg (not_not.mpr h)

theorem cmdWrite_legal {s : State} {w : Word} {i : Instr} (h : s.phase = .ready) (hi : decode s.cfg.nTimers w = .ok i) :
    cmdWrite w s = { s with phase := acceptPhase i } := by
  rw [cmdWrite_ready w h, submit, hi]
  rfl

theorem cmdWrite_illegal {s : State} {w : Word} (h : s.phase = .ready) (hw : illegalWord s.cfg.nTimers w) :
    cmdWrite w s = { s with cmdErr := true, events := s.events ++ [.logCmdIllegal w] } := by
  obtain ⟨e, he⟩ := decode_error_iff.mpr hw
  rw [cmdWrite_ready w h, submit, he]
  rfl

/-- An aligned 32-bit write at the offset of CMD is CMD_WRITE (45_control R332). -/
theorem writeGives_cmd (s : State) (w : Word) : writeGives s 0x08 w (cmdWrite w s) :=
  writeGives_of rfl (cmdWrite_setTurns w s)

/-- The host's write of a legal word to CMD in READY latches its command (45_control R320). -/
theorem step_accept {s : State} {w : Word} {i : Instr} {ts : List Turn} (h : s.phase = .ready)
    (hi : decode s.cfg.nTimers w = .ok i) (hts : s.turns = .env (.hostWrite (s.cfg.base + 0x08) 32 w) :: ts) :
    step s = .next { s with phase := acceptPhase i, turns := ts, busReply := .written } := by
  have hstep := writeGives_cmd s w ts
  rwa [← hts, cmdWrite_legal h hi] at hstep

/-- A word of 32 bits is placed whole. -/
theorem tableWord_toNat (w : Word) : tableWord 32 w.toNat = w := by
  apply BitVec.eq_of_toNat_eq
  simpa [tableWord] using w.isLt

theorem withFetchWord_legal {s : State} {w : Word} {i : Instr} (hi : decode s.cfg.nTimers w = .ok i) :
    s.withFetchWord 32 w.toNat = { s with phase := acceptPhase i, turns := blockFirst s.turns } := by
  rw [State.withFetchWord, tableWord_toNat]
  exact cmdWrite_legal rfl hi

/-- Settles O5: the CMD write latches the command, and a microstep is `exec` of the command in progress. -/
theorem stepRunsDecodedCommand : Obligations.StepRunsDecodedCommand := by
  refine ⟨fun s w i hi => ?_, fun s w i ts hp hi hts => ⟨_, step_accept hp hi hts, rfl, ?_⟩,
    fun s i hc => ⟨fun ts hts => ?_, fun hts => ?_⟩, fun s hp => ⟨fun ts hts => ?_, fun hts => ?_⟩⟩
  · rw [withFetchWord_legal hi]
    exact (step_blockFirst { s with phase := acceptPhase i }).trans (microstep_busy (acceptPhase_command i))
  · exact (step_block rfl).trans (microstep_busy (acceptPhase_command i))
  · exact (step_block hts).trans (microstep_busy hc)
  · exact (step_unlisted hts).trans (microstep_busy hc)
  · exact (step_block hts).trans (microstep_ready hp)
  · exact (step_unlisted hts).trans (microstep_ready hp)

/-- A word that is not illegal is a command (45_control R320). -/
theorem exists_decode_of_not_illegal {n : Nat} {w : Word} (h : ¬illegalWord n w) : ∃ i, decode n w = .ok i := by
  cases hd : decode n w with
  | ok i => exact ⟨i, rfl⟩
  | error e => exact absurd (decode_error_iff.mp ⟨e, hd⟩) h

/-- The opcode of a legal word is that of the command's row (30_encoding R121). -/
theorem opcode_of_decode {n : Nat} {w : Word} {i : Instr} (h : decode n w = .ok i) :
    w.toNat / 2 ^ 28 = Laws.opcodeOf i := by
  have hf := fieldsOf_decode h
  rw [← opField_toNat]
  cases i with
  | nop | poll | decode | feed | tpollall => exact congrArg BitVec.toNat hf
  | rxbyte | tcfg | tstart | trestart | tstop | tpoll =>
    obtain ⟨hop, -⟩ := hf
    exact congrArg BitVec.toNat hop

/-- The phase of each opcode (45_control R320): three opcodes have phases of their own, the others latch their command. -/
theorem acceptPhase_of_opcode (i : Instr) :
    (Laws.opcodeOf i = 0x1 → acceptPhase i = .pollDec) ∧ (Laws.opcodeOf i = 0x3 → acceptPhase i = .feedLoop) ∧
      (Laws.opcodeOf i = 0xA → acceptPhase i = .tpa .minp) ∧
      (Laws.opcodeOf i ≠ 0x1 → Laws.opcodeOf i ≠ 0x3 → Laws.opcodeOf i ≠ 0xA →
        i.isSingleStep = true ∧ acceptPhase i = .exec i) := by
  cases i <;> simp [Laws.opcodeOf, acceptPhase, Instr.isSingleStep]

/-- Settles O6, by the three outcomes of CMD_WRITE. -/
theorem commandSubmission : Obligations.CommandSubmission := by
  intro s w
  have hwrite := writeGives_cmd s w
  refine ⟨fun hp => ?_, fun hp hw => ?_, fun hp hw => ?_⟩
  · rwa [cmdWrite_busy w hp] at hwrite
  · rwa [cmdWrite_illegal hp hw] at hwrite
  · obtain ⟨i, hi⟩ := exists_decode_of_not_illegal hw
    rw [cmdWrite_legal hp hi] at hwrite
    obtain ⟨hpoll, hfeed, hall, hsingle⟩ := acceptPhase_of_opcode i
    rw [opcode_of_decode hi]
    exact ⟨acceptPhase i, hwrite, hpoll, hfeed, hall, fun h1 h3 hA => ⟨i, hi, hsingle h1 h3 hA⟩⟩

/-- BUSY is 1 exactly when a command is in progress (10_state R51). -/
theorem busy_iff (s : State) : (statusWord s).getLsbD 12 = true ↔ s.phase ≠ .ready := by
  rw [statusWord_getLsbD]
  exact decide_eq_true_iff

/-- A word with OP = 0 is NOP (45_control R322). -/
theorem decode_of_opcode_zero (n : Nat) {w : Word} (h : w.toNat / 2 ^ 28 = 0) : decode n w = .ok .nop :=
  decode_of_fieldsOf rfl (opField_eq ((opField_toNat w).trans h))

/-- Settles O7: the write of NOP latches it, and its one microstep is the return to READY. -/
theorem nopOnlyReturnsToReady : Obligations.NopOnlyReturnsToReady := by
  refine ⟨rfl, fun n w hw => decode_of_opcode_zero n hw, fun s => rfl, fun s hp hts => ?_⟩
  refine ⟨_, { s with turns := [], busReply := .written }, step_accept hp (decode_of_opcode_zero _ rfl) hts,
    (busy_iff _).mpr (ne_ready_of_command (acceptPhase_command .nop)), ?_, rfl, ?_⟩
  · rw [step_unlisted rfl, microstep_busy (acceptPhase_command .nop), hp]
    rfl
  · exact Bool.eq_false_iff.mpr fun hb => (busy_iff _).mp hb hp

/-! ### ARRIVE and TICK -/

/-- Settles O11, by the two cases of ARRIVE. -/
theorem arriveQueuesOrDrops : Obligations.ArriveQueuesOrDrops := by
  intro s b ts hts
  rw [step_env hts]
  exact ⟨fun hroom => congrArg Host.Outcome.next (if_pos hroom),
    fun hfull => congrArg Host.Outcome.next (if_neg (Nat.not_lt.mpr hfull))⟩

theorem wadd_toNat {c : Params} (h : c.clockBits ≤ 32) (a : Word) (d : Nat) :
    (wadd c a d).toNat = (a.toNat + d) % 2 ^ c.clockBits := clockOf_toNat h _

theorem wadd_wadd {c : Params} (h : c.clockBits ≤ 32) (x : Word) (a b : Nat) : wadd c (wadd c x a) b = wadd c x (a + b) := by
  apply BitVec.eq_of_toNat_eq
  rw [wadd_toNat h, wadd_toNat h, wadd_toNat h, Nat.mod_add_mod, Nat.add_assoc]

theorem tick_tick {s : State} (h : s.cfg.clockBits ≤ 32) (a b : Nat) : tick b (tick a s) = tick (a + b) s :=
  congrArg (fun v => { s with now := v }) (wadd_wadd h s.now a b)

/-- Settles O12: a tick is one addition modulo `2^CLOCK_BITS`, and two additions are one. -/
theorem tickMovesOnlyTheClock : Obligations.TickMovesOnlyTheClock := by
  intro s hcfg
  have hc := (params_facts hcfg).clock_le
  refine ⟨fun d ts _ hts => ⟨wadd s.cfg s.now d, step_env hts, wadd_toNat hc s.now d⟩, fun a b ts _ _ => ?_⟩
  exact congrArg Host.Outcome.next (tick_tick (s := { s with turns := ts }) hc a b)

end Sys2Proof.Machine

/-! This part: POLL in terms of DECODE and TPOLL (O8), and how many microsteps each command takes (O10). -/

namespace Sys2Proof.Machine

/-! ### The microsteps of POLL -/

/-- POLL's microstep in POLL_DEC (45_control R323). -/
theorem exec_poll_decoding {s : State} (h : s.phase = .pollDec) :
    exec .poll s = outcomeOf ((decodeOp s).map (setPhase .pollFeed)) := by
  show execPoll s = _
  rw [execPoll, h]
  rfl

/-- POLL's microstep in POLL_TMR(t) (45_control R323). -/
theorem exec_poll_polling {s : State} {t : TimerId} (h : s.phase = .pollTmr t) :
    exec .poll s = .next (pollTimerStep .pollTmr t s) := by
  show execPoll s = _
  rw [execPoll, h]

/-- Settles O8: POLL and DECODE run one DECODE_OP, POLL and TPOLL one T_POLL, each with its own phase after it. -/
theorem pollDecodesThenPollsTimers : Obligations.PollDecodesThenPollsTimers := by
  refine ⟨fun s h hp => ?_, fun s t hp => ⟨polled t s, exec_tpoll t s, fun v hv hn => ?_, fun hn => ?_⟩⟩
  · obtain ⟨t, ht, -⟩ := h.decodeOp_completes
    have hpoll : exec .poll s = .next (setPhase .pollFeed t) := (exec_poll_decoding hp).trans (outcomeOf_map ht)
    exact ⟨setPhase .ready t, outcomeOf_map ht, hpoll⟩
  · rw [exec_poll_polling hp, pollTimerStep_next hv hn]
    rfl
  · rw [exec_poll_polling hp, pollTimerStep_last hn]
    rfl

/-! ### Runs that end in READY -/

/-- The block comes back to READY after exactly `n` steps, with the bytes `q` queued. -/
def EndsIn (n : Nat) (q : List Byte) (s : State) : Prop :=
  (∃ t, runSteps n s = .next t ∧ t.phase = .ready ∧ t.rxq = q) ∧
    ∀ m, m < n → ∃ t, runSteps m s = .next t ∧ t.phase ≠ .ready

theorem EndsIn.readyAfter {n : Nat} {q : List Byte} {s : State} (h : EndsIn n q s)
    (hq : s.phase = .pollDec ∨ s.phase = .feedLoop → q = []) : readyAfter n s := by
  obtain ⟨⟨t, ht, hready, hrxq⟩, hbusy⟩ := h
  exact ⟨⟨t, ht, hready, fun hp => hrxq.trans (hq hp)⟩, hbusy⟩

theorem endsIn_zero {q : List Byte} {s : State} (h : s.phase = .ready) (hq : s.rxq = q) : EndsIn 0 q s :=
  ⟨⟨s, rfl, h, hq⟩, fun _ hm => absurd hm (Nat.not_lt_zero _)⟩

theorem runSteps_succ {s u : State} (h : step s = .next u) (n : Nat) : runSteps (n + 1) s = runSteps n u := by
  rw [runSteps, h]

/-- With no environment step to come, a step is `exec` of the command in progress. -/
theorem step_exec {s t : State} {p : Phase} {i : Instr} (hts : s.turns = []) (hp : s.phase = p) (hi : p.command = some i)
    (ht : exec i s = .next t) : step s = .next t :=
  (step_unlisted hts).trans ((microstep_busy (hp ▸ hi)).trans ht)

/-- A microstep of the command in progress, and then a run that ends in READY. -/
theorem EndsIn.microstep {n : Nat} {q : List Byte} {s u : State} {p : Phase} {i : Instr} (h : EndsIn n q u)
    (hts : s.turns = []) (hp : s.phase = p) (hi : p.command = some i) (hu : exec i s = .next u) : EndsIn (n + 1) q s := by
  subst hp
  have hstep := step_exec hts rfl hi hu
  obtain ⟨hend, hbusy⟩ := h
  refine ⟨by rwa [runSteps_succ hstep], fun m hm => ?_⟩
  cases m with
  | zero => exact ⟨s, rfl, ne_ready_of_command hi⟩
  | succ m =>
    rw [runSteps_succ hstep]
    exact hbusy m (Nat.lt_of_succ_lt_succ hm)

/-! ### The timers in turn -/

/-- A command that polls the timers in turn, TPOLLALL or POLL, comes back to READY after one microstep for each slot from
number `j` on, with the queue as it was; by induction on how many slots follow number `j`. -/
theorem endsIn_timers {i : Instr} {toPhase : TimerId → Phase} (hi : ∀ t, (toPhase t).command = some i)
    (hexec : ∀ {s t}, s.phase = toPhase t → exec i s = .next (pollTimerStep toPhase t s)) (k : Nat) {j : Nat} {s : State}
    (hk : j + (k + 1) = s.cfg.nTimers) (hts : s.turns = []) (hp : s.phase = toPhase (.ofIndex j)) {q : List Byte}
    (hq : s.rxq = q) : EndsIn (k + 1) q s := by
  induction k generalizing j s with
  | zero =>
    have hlast : s.cfg.nTimers ≤ (TimerId.ofIndex j).index + 1 := by rw [index_ofIndex, ← hk]
    have hend := endsIn_zero (setPhase_phase .ready _) ((tPoll_keeps (.ofIndex j) s).rxq.trans hq)
    exact hend.microstep hts hp (hi _) (by rw [hexec hp, pollTimerStep_last hlast])
  | succ k ih =>
    have hkeep := tPoll_keeps (.ofIndex j) s
    have hnext : (TimerId.ofIndex (j + 1)).index = (TimerId.ofIndex j).index + 1 := by simp
    have hlt : (TimerId.ofIndex (j + 1)).index < s.cfg.nTimers := by
      rw [index_ofIndex]
      omega
    have hk' : j + 1 + (k + 1) = (tPoll (.ofIndex j) s).cfg.nTimers := by
      rw [hkeep.cfg]
      omega
    have hend := ih (s := setPhase (toPhase (.ofIndex (j + 1))) (tPoll (.ofIndex j) s)) hk' (hkeep.turns.trans hts) rfl
      (hkeep.rxq.trans hq)
    exact hend.microstep hts hp (hi _) (by rw [hexec hp, pollTimerStep_next hnext hlt])

/-- From the first timer on, the microsteps of such a command are as many as there are slots (42_softtimer R267). -/
theorem endsIn_allTimers {i : Instr} {toPhase : TimerId → Phase} (hi : ∀ t, (toPhase t).command = some i)
    (hexec : ∀ {s t}, s.phase = toPhase t → exec i s = .next (pollTimerStep toPhase t s)) {s : State}
    (hn : 5 ≤ s.cfg.nTimers) (hts : s.turns = []) (hp : s.phase = toPhase .minp) : EndsIn s.cfg.nTimers s.rxq s := by
  obtain ⟨k, hk⟩ : ∃ k, s.cfg.nTimers = k + 1 := Nat.exists_eq_add_one.mpr (by omega)
  rw [hk]
  exact endsIn_timers hi hexec k (j := 0) (by omega) hts hp rfl

/-! ### The drain of the queue -/

/-- With a byte queued, FEEDSTEP takes it off the queue and stays in its loop (40_receiver R173). -/
theorem Invariant.feedStep_byte {s : State} {b : Byte} {q : List Byte} (h : Invariant s) (hq : s.rxq = b :: q)
    (loop next : Phase) : ∃ t, feedStep loop next s = .ok t ∧ t.phase = loop ∧ t.rxq = q ∧ t.turns = s.turns ∧
      t.cfg = s.cfg := by
  obtain ⟨t, hx, hfeed⟩ := h.feedStep_takes hq loop next
  obtain ⟨v, hv, rfl⟩ := exec_rxbyte_ok hx
  have hkeep := rxStep_keeps hv
  exact ⟨_, hfeed, rfl, hkeep.rxq, hkeep.turns, hkeep.cfg⟩

/-- A command that drains the queue, FEED or POLL, takes one microstep for each byte queued, one more for the empty queue, and
then those of the phase it goes on to; by induction on the queue. -/
theorem Invariant.endsIn_drain {i : Instr} {loop next : Phase} (hi : loop.command = some i)
    (hexec : ∀ {s}, s.phase = loop → exec i s = outcomeOf (feedStep loop next s)) {s : State} (h : Invariant s) {n : Nat}
    (hnext : ∀ t : State, t.phase = next → t.turns = [] → t.rxq = [] → t.cfg = s.cfg → EndsIn n [] t)
    (hts : s.turns = []) (hp : s.phase = loop) {q : List Byte} (hq : s.rxq = q) : EndsIn (n + 1 + q.length) [] s := by
  induction q generalizing s with
  | nil =>
    refine (hnext (Machine.setPhase next s) rfl hts hq rfl).microstep hts hp hi ?_
    rw [hexec hp, feedStep_empty hq]
    rfl
  | cons b q ih =>
    obtain ⟨t, hfeed, hloop, hrest, hturns, hcfg⟩ := h.feedStep_byte hq loop next
    have ht : exec i s = .next t := (hexec hp).trans (outcomeOf_next.mpr hfeed)
    have hinv : Invariant t := stepKeepsInvariant s t h (step_exec hts hp hi ht)
    have hend := ih hinv (hcfg ▸ hnext) (hturns.trans hts) hloop hrest
    exact hend.microstep hts hp hi ht

/-! ### The four kinds of commands -/

/-- A command done in one microstep ends in READY (45_control R321). -/
theorem exec_singleStep_ready {c : Instr} {s t : State} (hc : c.isSingleStep = true) (h : exec c s = .next t) :
    t.phase = .ready := by
  cases c with
  | decode | rxbyte =>
    obtain ⟨v, -, rfl⟩ := map_ok (outcomeOf_next.mp h)
    rfl
  | poll | feed | tpollall => cases hc
  | nop | tcfg | tstart | trestart | tstop | tpoll =>
    cases h
    rfl

theorem Invariant.endsIn_single {s : State} {c : Instr} (h : Invariant s) (hts : s.turns = []) (hp : s.phase = .exec c) :
    ∃ q, EndsIn 1 q s := by
  have hok := h.phase
  rw [hp, Phase.ok, Bool.and_eq_true] at hok
  obtain ⟨hsingle, -⟩ := hok
  obtain ⟨t, ht, -⟩ := h.exec_completes hsingle
  exact ⟨t.rxq, (endsIn_zero (exec_singleStep_ready hsingle ht) rfl).microstep hts hp rfl ht⟩

theorem Invariant.endsIn_feed {s : State} (h : Invariant s) (hts : s.turns = []) (hp : s.phase = .feedLoop) :
    EndsIn (0 + 1 + s.rxq.length) [] s :=
  h.endsIn_drain (i := .feed) rfl (fun _ => rfl) (fun _ hready _ hq _ => endsIn_zero hready hq) hts hp rfl

theorem Invariant.endsIn_pollFeed {s : State} (h : Invariant s) (hts : s.turns = []) (hp : s.phase = .pollFeed) :
    EndsIn (s.cfg.nTimers + 1 + s.rxq.length) [] s := by
  refine h.endsIn_drain (i := .poll) rfl exec_poll_feeding (fun t htmr hturns hq hcfg => ?_) hts hp rfl
  rw [← hcfg, ← hq]
  exact endsIn_allTimers (fun _ => rfl) exec_poll_polling (hcfg ▸ h.five_le) hturns htmr

/-- POLL from its first microstep on: DECODE_OP, which leaves the queue as it is, and then the drain. -/
theorem Invariant.endsIn_poll {s : State} (h : Invariant s) (hts : s.turns = []) (hp : s.phase = .pollDec) :
    EndsIn (s.cfg.nTimers + 1 + s.rxq.length + 1) [] s := by
  obtain ⟨t, ht, hinv⟩ := h.decodeOp_completes
  have hkeep := decodeOp_keeps ht
  have hend := (hinv.setPhase (p := .pollFeed) rfl).endsIn_pollFeed (hkeep.turns.trans hts) rfl
  rw [setPhase_cfg, setPhase_rxq, hkeep.cfg, hkeep.rxq] at hend
  exact hend.microstep hts hp rfl ((exec_poll_decoding hp).trans (outcomeOf_map ht))

/-- Settles O10: each kind of command comes back to READY, and BUSY is bit 12 of STATUS. -/
theorem microstepCounts : Obligations.MicrostepCounts := by
  refine ⟨fun s h hts => ⟨fun c hp => ?_, fun hp => ?_, fun hp => ?_, fun hp => ?_⟩, busy_iff⟩
  · obtain ⟨q, hend⟩ := h.endsIn_single hts hp
    exact hend.readyAfter (by simp [hp])
  · exact (endsIn_allTimers (fun _ => rfl) exec_tpollall h.five_le hts hp).readyAfter (by simp [hp])
  · have hend := (h.endsIn_feed hts hp).readyAfter fun _ => rfl
    rwa [show s.rxq.length + 1 = 0 + 1 + s.rxq.length by omega]
  · have hend := (h.endsIn_poll hts hp).readyAfter fun _ => rfl
    rwa [show s.rxq.length + 2 + s.cfg.nTimers = s.cfg.nTimers + 1 + s.rxq.length + 1 by omega]

end Sys2Proof.Machine

/-! Proofs of the family 60_exceptions: no error condition stops the block (O20, 60_exceptions R350). -/

namespace Sys2Proof.Machine

/-- Settles O20, by the first half of the step lemma of 10_state: the invariant bounds every access by BUF_CAP
(20_memory R91), a group under way has its cells written (40_receiver R170), and a pending buffer holds a string. -/
theorem noStepFaultsOrRefuses : Obligations.NoStepFaultsOrRefuses := by
  intro s hs
  obtain ⟨t, ht, -⟩ := hs.step_completes
  exact ⟨t, ht⟩

end Sys2Proof.Machine
